-- ==== Sys2Proof/Word.lean ====
section
/-!
DEFINITION. The word types of the block (00_scope.md R9; 10_state.md R21).
-/

namespace Sys2Proof

/-- A byte; bit 7 is its most significant bit (R9). -/
abbrev Byte := BitVec 8

/-- One word of the host map: every register and every buffer element occupies one (R61). -/
abbrev Word := BitVec 32

/-- A 5-bit GCR codeword (R11, R112). -/
abbrev Codeword := BitVec 5

/-- A record of the diagnostic log, 22 bits (R41). -/
abbrev DiagWord := BitVec 22

end Sys2Proof
end

