-- ==== Sys2Proof/Config.lean ====
section
/-!
DEFINITION. What an implementation fixes (00_scope.md R8): the capacities, the types of the three
parameters the spec leaves as arguments of a model, and the free values of RAM that nothing has
written since reset (10_state.md R51; 93_implementation_defined.md U10).
-/

namespace Sys2Proof.Config

/-- `TBMAX`: capacity of the track buffer `TB` in bytes (R8). -/
def tbMax : Nat := 65535
/-- `WBMAX`: capacity of the work buffer `WB` in bytes (R8). -/
def wbMax : Nat := 1024
/-- `OBMAX`: capacity of the output buffer `OB` in bytes (R8). -/
def obMax : Nat := 1024
/-- `NBMAX`: capacity of the nibble buffer `NB` in entries (R8). -/
def nbMax : Nat := 2048
/-- `DIAGMAX`: capacity of the diagnostic log `DIAG` in records (R8). -/
def diagMax : Nat := 2048
/-- `PTMAX`: capacity of `PT`, `ORDSEC` and `ORDPOS` in entries (R8). -/
def ptMax : Nat := 21

/-- The four nibbles `encode_pair(a, x)` maps through `T6` (R162). -/
inductive NibbleSource
  | xHi | xLo | aHi | aLo
deriving DecidableEq, Repr

/-- `PAIR_ORDER` (R8, U6): which nibble stands in each of the four 6-bit places, the most
significant place first. -/
structure PairOrder where
  place0 : NibbleSource
  place1 : NibbleSource
  place2 : NibbleSource
  place3 : NibbleSource
deriving DecidableEq, Repr

/-- The parameters that the spec gives a model as arguments: `GCR_TABLE` (R111, U1; entry `v` is
the codeword of nibble `v`), `PAIR_ORDER` (R162, U6) and `GDB_BASE` (R61, U5). -/
structure Params where
  gcrTable  : Vector Codeword 16
  pairOrder : PairOrder
  gdbBase   : Nat
deriving DecidableEq, Repr

/-- The four byte-wide RAM buffers (10_state.md section 3). -/
inductive ByteRam
  | tb | wb | ob | nb
deriving DecidableEq, Repr

/-- Free value (log entry 4): what element `i` of a byte-wide RAM buffer holds after the `epoch`-th
reset while nothing has written it (R51, U10: any value). -/
opaque unwrittenByte (epoch : Nat) (r : ByteRam) (i : Nat) : Byte

/-- Free value (log entry 4): what record `i` of `DIAG` holds after the `epoch`-th reset while
nothing has written it (R51, U10: any value). -/
opaque unwrittenDiag (epoch : Nat) (i : Nat) : DiagWord

end Sys2Proof.Config
end

