-- ==== Sys2Proof/Syntax.lean ====
section
/-!
DEFINITION. The commands of the block (30_encoding.md R91, spec/opcode_table.json), the names of
its registers and address spaces (10_state.md sections 2 and 3), and the lines of a host program
(30_encoding.md R95, R96).
-/

namespace Sys2Proof

/-- The eleven commands and the illegal opcodes 0x0B to 0xFF (R91, R93). -/
inductive Instr
  | nop
  | gcrdec
  | rdbit
  | rdbytes
  | sync
  | rdsec
  | rlhdr
  | rlfind
  | rlsweep
  | rlpay
  | unscr
  | illegal (op : Byte)
deriving DecidableEq, Repr

/-- The 18 registers of the host map (10_state.md section 2). -/
inductive Reg
  | cmd | status | tblen | cur | trk | sec | cnt | wlen | spanStart | spanEnd
  | pos | olen | rawlen | nlen | diagcnt | bitv | nfound | nslot
deriving DecidableEq, Repr

/-- The ten address spaces (20_memory.md R60). -/
inductive Space
  | hdr | sh | pt | ordsec | ordpos | wb | ob | nb | diag | tb
deriving DecidableEq, Repr

/-- A line of a host program (R95), the pseudo-commands among them (R96). -/
inductive HostLine
  | wr (r : Reg) (v : Word)
  | rd (r : Reg)
  | wre (sp : Space) (i : Nat) (v : Word)
  | rde (sp : Space) (i : Nat)
  | cmd (i : Instr)
  | loadTrack (bytes : List Byte)
  | loadWb (bytes : List Byte)
  | rewind
  | decodeBytes (bytes : List Byte)
  | rdbytesN (n : Word)
  | rlhdrOf (t s : Word)
  | findSec (t s : Word)
  | rlsweepOf (t : Word)
  | rlpayOf (a b : Word)
deriving DecidableEq, Repr

end Sys2Proof
end

