-- ==== Sys2Proof/Machine/Tables.lean ====
section
/-!
DEFINITION. The constants and tables of the spec: the numbers of 00_scope.md R7, the GCR symbol
table (40_gcr_decode.md R111), the 6-bit table and the zone table (42_rapidlok_header.md R161,
R160), the default parameters (R8), and the host map's offsets (20_memory.md R61).
-/

namespace Sys2Proof.Machine

/-- `GROUP_IN`: bytes of a GCR input group (R7). -/
def groupIn : Nat := 5
/-- `SYNC_MIN`: consecutive 1-bits that make a sync run (R7). -/
def syncMin : Nat := 10
/-- `HDR_RAW`: raw bytes of a standard sector header (R7). -/
def hdrRaw : Nat := 10
/-- `DATA_RAW`: raw bytes of a standard sector data block (R7). -/
def dataRaw : Nat := 325
/-- `STD_PAYLOAD`: bytes of a standard payload (R7). -/
def stdPayload : Nat := 256
/-- `NIB_SENTINEL`: the nibble entry of an invalid codeword (R7). -/
def nibSentinel : Byte := 0xFF#8
/-- `RL_LEAD`: the first byte of a Rapidlok header (R7). -/
def rlLead : Byte := 0x75#8
/-- `RL_XOR`: the constant of the second header group (R7). -/
def rlXor : Byte := 0x96#8
/-- `RL_HDR_LEN`: bytes of a Rapidlok header (R7). -/
def rlHdrLen : Nat := 7
/-- `RL_MARK`, first byte (R7). -/
def rlMark0 : Byte := 0xFF#8
/-- `RL_MARK`, second byte (R7). -/
def rlMark1 : Byte := 0x6B#8
/-- `RL_WINDOW`: bytes of the marker search window (R7). -/
def rlWindow : Nat := 32
/-- `RL_TAKE`: scrambled bytes of a full sector, 194 triples (R7). -/
def rlTake : Nat := 582
/-- `RL_TRAILER`: bytes of the trimmed trailer (R7). -/
def rlTrailer : Nat := 4

/-- `GCR_TABLE`, the table of R111: entry `v` is the codeword of nibble `v`. The spec marks the
entries 3 to 14 as general knowledge (U1, log entry 2). -/
def gcrTable : Vector Codeword 16 :=
  #v[0b01010#5, 0b01011#5, 0b10010#5, 0b10011#5, 0b01110#5, 0b01111#5, 0b10110#5, 0b10111#5,
     0b01001#5, 0b11001#5, 0b11010#5, 0b11011#5, 0b01101#5, 0b11101#5, 0b11110#5, 0b10101#5]

/-- `PAIR_ORDER`, the value the spec takes: (`x` high, `x` low, `a` high, `a` low) (R8, D18). -/
def pairOrder : Config.PairOrder :=
  { place0 := .xHi, place1 := .xLo, place2 := .aHi, place3 := .aLo }

/-- The parameter values the spec takes (R8); for `GDB_BASE` it takes none and allows 0 (log
entry 1). -/
def specParams : Config.Params :=
  { gcrTable := gcrTable, pairOrder := pairOrder, gdbBase := 0 }

/-- The 6-bit table `T6` (R161). -/
def t6Table : Vector (BitVec 6) 16 :=
  #v[0x24#6, 0x25#6, 0x26#6, 0x27#6, 0x2C#6, 0x2D#6, 0x2E#6, 0x2F#6,
     0x34#6, 0x35#6, 0x36#6, 0x37#6, 0x3C#6, 0x3D#6, 0x3A#6, 0x3B#6]

/-- `T6[n]` (R161). -/
def t6 (n : BitVec 4) : BitVec 6 := t6Table[n.toNat]'(n.isLt)

/-- `sectors_per_track(t)`, the zone table, with the tests in the order of R160. -/
def sectorsPerTrack (t : Byte) : Nat :=
  if 31 ≤ t.toNat then 16
  else if t.toNat ≤ 17 then 20
  else if t.toNat ≤ 24 then 18
  else 17

/-- The register's byte offset in the host map (10_state.md section 2). -/
def regOffset : Reg → Nat
  | .cmd => 0x00 | .status => 0x04 | .tblen => 0x08 | .cur => 0x0C | .trk => 0x10
  | .sec => 0x14 | .cnt => 0x18 | .wlen => 0x1C | .spanStart => 0x20 | .spanEnd => 0x24
  | .pos => 0x28 | .olen => 0x2C | .rawlen => 0x30 | .nlen => 0x34 | .diagcnt => 0x38
  | .bitv => 0x3C | .nfound => 0x40 | .nslot => 0x44

/-- All registers, in the order of their offsets. -/
def allRegs : List Reg :=
  [.cmd, .status, .tblen, .cur, .trk, .sec, .cnt, .wlen, .spanStart, .spanEnd,
   .pos, .olen, .rawlen, .nlen, .diagcnt, .bitv, .nfound, .nslot]

/-- The space's base offset in the host map (20_memory.md R61). -/
def spaceBase : Space → Nat
  | .hdr => 0x00100 | .sh => 0x00140 | .pt => 0x00200 | .ordsec => 0x00300 | .ordpos => 0x00380
  | .wb => 0x01000 | .ob => 0x02000 | .nb => 0x04000 | .diag => 0x06000 | .tb => 0x40000

/-- The number of elements of a space (20_memory.md R60). -/
def spaceCount : Space → Nat
  | .hdr => 7 | .sh => 8 | .pt => Config.ptMax | .ordsec => Config.ptMax
  | .ordpos => Config.ptMax | .wb => Config.wbMax | .ob => Config.obMax | .nb => Config.nbMax
  | .diag => Config.diagMax | .tb => Config.tbMax

/-- All address spaces, in the order of their bases. -/
def allSpaces : List Space :=
  [.hdr, .sh, .pt, .ordsec, .ordpos, .wb, .ob, .nb, .diag, .tb]

end Sys2Proof.Machine
end

