-- ==== Sys2Proof/Machine/State.lean ====
section
/-!
DEFINITION. The state of the block (10_state.md R21), the host's accesses that drive it
(20_memory.md R62; 70_reset_and_hazards.md R270), the reasons a step can stop, and reset (R50).
-/

namespace Sys2Proof.Machine

/-- A memory: the elements written since reset, by element index, the indices strictly rising. An
index that is not listed has no value of its own: nothing has written it since reset (R51). -/
abbrev Memory (α : Type) := List (Nat × α)

/-- One event the host or the platform issues: a read or a write of `width` bits at a byte address
of the platform (R62, R63), an access to an element that its space does not have, which has no
mapped address (R222; log entry 6), or the external reset (R270). -/
inductive HostEvent
  | read (width addr : Nat)
  | write (width addr : Nat) (value : Word)
  | outside (sp : Space) (i : Nat)
  | reset
deriving DecidableEq, Repr

/-- The state of the block: the 18 registers, the five register-kind tables and the five RAM buffers
(R23 to R45), then the model's own fields (INVENTORY.md, State). -/
@[ext]
structure State where
  /-- `CMD` (R23) -/
  cmd : Byte
  /-- `STATUS`: code in bits 3:0, `DF` in bit 4 (R24, R25) -/
  status : BitVec 5
  /-- `TBLEN` (R26) -/
  tblen : BitVec 16
  /-- `CUR` (R27) -/
  cur : BitVec 19
  /-- `TRK` (R28) -/
  trk : Byte
  /-- `SEC` (R28) -/
  sec : Byte
  /-- `CNT` (R29) -/
  cnt : BitVec 16
  /-- `WLEN` (R30) -/
  wlen : BitVec 11
  /-- `START` (R31) -/
  spanStart : BitVec 16
  /-- `END` (R31) -/
  spanEnd : BitVec 16
  /-- `POS` (R32) -/
  pos : Word
  /-- `OLEN` (R33) -/
  olen : BitVec 11
  /-- `RAWLEN` (R33) -/
  rawlen : BitVec 11
  /-- `NLEN` (R33) -/
  nlen : BitVec 12
  /-- `DIAGCNT` (R34) -/
  diagcnt : BitVec 12
  /-- `BITV` (R35) -/
  bitv : BitVec 1
  /-- `NFOUND` (R36) -/
  nfound : BitVec 5
  /-- `NSLOT` (R36) -/
  nslot : BitVec 5
  /-- `HDR` (R42) -/
  hdr : Vector Byte 7
  /-- `SH` (R43) -/
  sh : Vector Byte 8
  /-- `PT` (R44) -/
  pt : Vector Word 21
  /-- `ORDSEC` (R45) -/
  ordsec : Vector Byte 21
  /-- `ORDPOS` (R45) -/
  ordpos : Vector Word 21
  /-- `TB` (R37) -/
  tb : Memory Byte
  /-- `WB` (R38) -/
  wb : Memory Byte
  /-- `OB` (R39) -/
  ob : Memory Byte
  /-- `NB` (R40) -/
  nb : Memory Byte
  /-- `DIAG` (R41) -/
  diag : Memory DiagWord
  /-- The model's own: the parameters the spec leaves as arguments (R8); no step changes them. -/
  params : Config.Params
  /-- The model's own: the number of external resets applied, which the free values of unwritten
  RAM depend on (U10). -/
  ramEpoch : Nat
  /-- The model's own: the events the host has still to issue, the next one first. -/
  pending : List HostEvent
  /-- The model's own: the words the host's reads returned, the newest first. -/
  replies : List Word
deriving DecidableEq, Repr

/-- The block has no fault: "it is below the container level, so nothing in it traps", every
abnormal outcome being a result code the host reads (60_exceptions.md R240, R245). The type is empty,
which is safe: no step of the model answers a fault. -/
inductive Fault
deriving DecidableEq, Repr

/-- Why a step has no next state. -/
inductive Refusal
  /-- Raised by `exec` for an instruction without a meaning; no arm of this model raises it. Safe:
  the model stops where the hardware goes on. -/
  | notModelled (mnemonic : String)
  /-- Raised by a host access to an address outside the host map (R63, U4: refuse). Safe: the spec
  gives the access no effect. -/
  | unmappedAddress (addr : Nat)
  /-- Raised by a host access to an address that is not a multiple of 4 (R63, U4: refuse). Safe: the
  spec gives the access no effect. -/
  | misalignedAddress (addr : Nat)
  /-- Raised by a host access of a width other than 32 bits (R63, U4: refuse). Safe: the spec gives
  the access no effect. -/
  | accessWidth (width : Nat)
  /-- Raised by a host access to element `i` of a space that has no element `i`: "an index outside
  the space's element count is an unmapped address" (R222, R63, U4: refuse). Safe: the spec gives the
  access no effect. -/
  | unmappedElement (sp : Space) (i : Nat)
deriving DecidableEq, Repr

/-- The state after reset (R50). The RAM buffers list nothing: their contents are unspecified. The
model's own fields hold the spec's parameter values, no reset beyond this one, no event and no
reply (log entries 1, 4 and 5). -/
def State.reset : State :=
  { cmd := 0x00#8
    status := 0#5
    tblen := 0#16
    cur := 0#19
    trk := 0#8
    sec := 0#8
    cnt := 0#16
    wlen := 0#11
    spanStart := 0#16
    spanEnd := 0#16
    pos := 0xFFFFFFFF#32
    olen := 0#11
    rawlen := 0#11
    nlen := 0#12
    diagcnt := 0#12
    bitv := 0#1
    nfound := 0#5
    nslot := 0#5
    hdr := Vector.replicate 7 0x00#8
    sh := Vector.replicate 8 0x00#8
    pt := Vector.replicate 21 0xFFFFFFFF#32
    ordsec := Vector.replicate 21 0xFF#8
    ordpos := Vector.replicate 21 0xFFFFFFFF#32
    tb := []
    wb := []
    ob := []
    nb := []
    diag := []
    params := specParams
    ramEpoch := 0
    pending := []
    replies := [] }

end Sys2Proof.Machine
end

