-- ==== Sys2Proof/Machine/Ops.lean ====
section
/-!
DEFINITION. The named operations over memory and registers: one element of a memory, a run of
elements, the five RAM buffers as the block sees them, the updates a command makes, and the end of
a command.
-/

namespace Sys2Proof.Machine

/-- The element at index `a`, `none` where nothing has written it since reset (R51). -/
def Memory.get? {α : Type} (a : Nat) : Memory α → Option α
  | [] => none
  | (b, v) :: m => if a = b then some v else Memory.get? a m

/-- `S[a] <- v`; the indices stay strictly rising. -/
def Memory.write {α : Type} (a : Nat) (v : α) : Memory α → Memory α
  | [] => [(a, v)]
  | (b, w) :: m =>
    if a < b then (a, v) :: (b, w) :: m
    else if a = b then (a, v) :: m
    else (b, w) :: Memory.write a v m

/-- `S[base .. base + |vs|) <- vs`. -/
def Memory.writeRange {α : Type} : Nat → List α → Memory α → Memory α
  | _, [], m => m
  | base, v :: vs, m => Memory.writeRange (base + 1) vs (Memory.write base v m)

/-- The canonical form: the listed indices strictly rise. An unlisted index has no value, so no
entry can equal what an unlisted index holds. -/
abbrev Memory.wf {α : Type} (m : Memory α) : Prop := m.Pairwise (fun x y => x.1 < y.1)

/-- Every listed index lies below the space's capacity. -/
abbrev Memory.below {α : Type} (cap : Nat) (m : Memory α) : Prop := ∀ c ∈ m, c.1 < cap

/-- The memory that holds a byte-wide RAM buffer. -/
def State.ram (s : State) : Config.ByteRam → Memory Byte
  | .tb => s.tb
  | .wb => s.wb
  | .ob => s.ob
  | .nb => s.nb

/-- Element `i` of a byte-wide RAM buffer; a free value where nothing has written it (R51). -/
def State.ramByte (s : State) (r : Config.ByteRam) (i : Nat) : Byte :=
  ((s.ram r).get? i).getD (Config.unwrittenByte s.ramEpoch r i)

/-- `TB[i]` (R37). -/
def State.tbByte (s : State) (i : Nat) : Byte := s.ramByte .tb i
/-- `WB[i]` (R38). -/
def State.wbByte (s : State) (i : Nat) : Byte := s.ramByte .wb i
/-- `OB[i]` (R39). -/
def State.obByte (s : State) (i : Nat) : Byte := s.ramByte .ob i
/-- `NB[i]` (R40). -/
def State.nbByte (s : State) (i : Nat) : Byte := s.ramByte .nb i

/-- `DIAG[i]` (R41); a free value where nothing has written it (R51). -/
def State.diagAt (s : State) (i : Nat) : DiagWord :=
  (s.diag.get? i).getD (Config.unwrittenDiag s.ramEpoch i)

/-- `CUR <- n`. -/
def State.setCur (s : State) (n : Nat) : State := { s with cur := BitVec.ofNat 19 n }

/-- `BITV <- b` (R132). -/
def State.setBitv (s : State) (b : Bool) : State := { s with bitv := BitVec.ofBool b }

/-- `WB[0..|bs|) <- bs; WLEN <- |bs|` (R133). -/
def State.putWork (s : State) (bs : List Byte) : State :=
  { s with wb := s.wb.writeRange 0 bs, wlen := BitVec.ofNat 11 bs.length }

/-- `OLEN <- 0; NLEN <- 0; DIAGCNT <- 0` (R116, R136). -/
def State.clearDecode (s : State) : State := { s with olen := 0#11, nlen := 0#12, diagcnt := 0#12 }

/-- `OB[0..|bs|) <- bs; OLEN <- |bs|` (R116, R136). -/
def State.putOutput (s : State) (bs : List Byte) : State :=
  { s with ob := s.ob.writeRange 0 bs, olen := BitVec.ofNat 11 bs.length }

/-- `NB[0..|ns|) <- ns; NLEN <- |ns|` (R116, R136). -/
def State.putNibbles (s : State) (ns : List Byte) : State :=
  { s with nb := s.nb.writeRange 0 ns, nlen := BitVec.ofNat 12 ns.length }

/-- The records `rs` to `DIAG` from index `d0` on, and `DIAGCNT` to the index after the last
(R115). -/
def State.putDiag (s : State) (d0 : Nat) (rs : List DiagWord) : State :=
  { s with diag := s.diag.writeRange d0 rs, diagcnt := BitVec.ofNat 12 (d0 + rs.length) }

/-- `SH[0..8) <- h` (R136). -/
def State.putSh (s : State) (h : Vector Byte 8) : State := { s with sh := h }

/-- `HDR[0..7) <- h` (R164). -/
def State.putHdr (s : State) (h : Vector Byte 7) : State := { s with hdr := h }

/-- `POS <- p` (R166). -/
def State.setPos (s : State) (p : Word) : State := { s with pos := p }

/-- The outputs of a sweep (R167). -/
def State.putSweep (s : State) (slots found : Nat) (pt : Vector Word 21)
    (ordsec : Vector Byte 21) (ordpos : Vector Word 21) : State :=
  { s with
    nslot := BitVec.ofNat 5 slots, nfound := BitVec.ofNat 5 found
    pt := pt, ordsec := ordsec, ordpos := ordpos }

/-- `OLEN <- 0; RAWLEN <- 0` (R196). -/
def State.clearPayload (s : State) : State := { s with olen := 0#11, rawlen := 0#11 }

/-- `OB[0..|R|) <- R; RAWLEN <- |R|; OLEN <- max(0, RAWLEN - 4)` (R195, R196, R197). -/
def State.putPayload (s : State) (r : List Byte) : State :=
  { s with
    ob := s.ob.writeRange 0 r
    rawlen := BitVec.ofNat 11 r.length
    olen := BitVec.ofNat 11 (r.length - rlTrailer) }

/-- `STATUS <- v`: the end of every command, the block's only "trap entry" (R24, R240, R245): no
state is saved, no mode changes, control goes nowhere. There is no return from it (R246). -/
def State.setStatus (s : State) (v : BitVec 5) : State := { s with status := v }

end Sys2Proof.Machine
end

