-- ==== Sys2Proof/Machine/Flags.lean ====
section
/-!
DEFINITION. The result codes and the decode-fault flag of `STATUS` (10_state.md R24, R25;
60_exceptions.md R240), and the end of a command, which writes both.
-/

namespace Sys2Proof.Machine

/-- The eight result codes (R240). -/
inductive ResultCode
  | ok | eSync | eShort | eFormat | eNoMatch | eNoMark | eRange | eBadCmd
deriving DecidableEq, Repr

/-- The number of a result code (R240). -/
def codeBits : ResultCode → BitVec 4
  | .ok => 0#4
  | .eSync => 1#4
  | .eShort => 2#4
  | .eFormat => 3#4
  | .eNoMatch => 4#4
  | .eNoMark => 5#4
  | .eRange => 6#4
  | .eBadCmd => 7#4

/-- The five bits of `STATUS`: `DF` in bit 4, the code in bits 3:0 (R24). -/
def statusBits (c : ResultCode) (df : Bool) : BitVec 5 := BitVec.ofBool df ++ codeBits c

/-- `STATUS.code` (R24). -/
def State.code (s : State) : BitVec 4 := s.status.extractLsb' 0 4

/-- `STATUS.DF` (R25). -/
def State.df (s : State) : Bool := s.status.getLsbD 4

/-- `DIAGCNT ≠ 0`: what `GCRDEC` and `RDSEC` leave in `DF` (R25). -/
def State.hasDiag (s : State) : Bool := s.diagcnt != 0#12

/-- The end of a command: `STATUS.code <- c; STATUS.DF <- df` (R24, R240, R245). -/
def State.endCommand (s : State) (c : ResultCode) (df : Bool) : State :=
  s.setStatus (statusBits c df)

end Sys2Proof.Machine
end

