-- ==== Sys2Proof/Machine/Control.lean ====
section
/-!
DEFINITION. The control command `NOP` (44_control.md R220) and the illegal opcodes
(30_encoding.md R93).
-/

namespace Sys2Proof.Machine

/-- `NOP` (R220). -/
def execNop (s : State) : Host.Outcome State Fault Refusal :=
  .next (s.endCommand .ok false)

/-- An illegal opcode: `E_BADCMD`, nothing else changes (R93). `CMD` already holds the opcode: the
host's write stored it (R23). -/
def execIllegal (s : State) : Host.Outcome State Fault Refusal :=
  .next (s.endCommand .eBadCmd false)

end Sys2Proof.Machine
end

