-- ==== Sys2Proof/Machine/Operands.lean ====
section
/-!
DEFINITION. The operands of the commands (30_encoding.md R92): the bit stream of `TB`
(41_bit_cursor_sync.md R130; 20_memory.md R65), spans of `TB`, and the bytes of `WB`.
-/

namespace Sys2Proof.Machine

/-- `LIMIT = 8·TBLEN` (R10, R130). -/
def State.limit (s : State) : Nat := 8 * s.tblen.toNat

/-- `tbbit(k) = TB[⌊k/8⌋][7 − (k mod 8)]` (R10, R65). -/
def State.tbBit (s : State) (k : Nat) : Bool := (s.tbByte (k / 8)).getLsbD (7 - k % 8)

/-- The byte read bit by bit from stream position `c`, the first bit read being bit 7 (R65). -/
def State.streamByte (s : State) (c : Nat) : Byte :=
  BitVec.ofBool (s.tbBit c) ++ BitVec.ofBool (s.tbBit (c + 1)) ++
  BitVec.ofBool (s.tbBit (c + 2)) ++ BitVec.ofBool (s.tbBit (c + 3)) ++
  BitVec.ofBool (s.tbBit (c + 4)) ++ BitVec.ofBool (s.tbBit (c + 5)) ++
  BitVec.ofBool (s.tbBit (c + 6)) ++ BitVec.ofBool (s.tbBit (c + 7))

/-- The `n` bytes read bit by bit from stream position `c` (R133). -/
def State.streamBytes (s : State) (c n : Nat) : List Byte :=
  (List.range n).map (fun j => s.streamByte (c + 8 * j))

/-- `TB[a..b)` (R9). -/
def State.tbSpan (s : State) (a b : Nat) : List Byte :=
  (List.range' a (b - a)).map s.tbByte

/-- `WB[0..n)` (R9). -/
def State.wbBytes (s : State) (n : Nat) : List Byte :=
  (List.range n).map s.wbByte

/-- `sext_32` of a position, -1 standing for none (R10, R32). -/
def posWord : Option Nat → Word
  | none => 0xFFFFFFFF#32
  | some p => BitVec.ofNat 32 p

end Sys2Proof.Machine
end

