-- ==== Sys2Proof/Machine/Gcr.lean ====
section
/-!
DEFINITION. The GCR nibble decoder (40_gcr_decode.md): codewords, lookup, packing, the procedure
`gcr_decode` and the command `GCRDEC`.
-/

namespace Sys2Proof.Machine

/-- `DECTAB[cw]`: the nibble whose codeword is `cw`, `none` where `cw` is invalid (R111). -/
def decTab (t : Vector Codeword 16) (cw : Codeword) : Option (BitVec 4) :=
  ((List.finRange 16).find? (fun v => t[v] == cw)).map (fun v => BitVec.ofNat 4 v.val)

/-- The 40-bit value of a group, `b0` most significant (R112). -/
def groupWord (b0 b1 b2 b3 b4 : Byte) : BitVec 40 := b0 ++ b1 ++ b2 ++ b3 ++ b4

/-- Codeword `k` of a group: `(G >> (35 − 5k)) & 0x1F` (R112). -/
def codewordOf (g : BitVec 40) (k : Nat) : Codeword := g.extractLsb' (35 - 5 * k) 5

/-- The codewords of a byte sequence, eight for each whole group of five bytes (R110, R112). -/
def codewords : List Byte → List Codeword
  | b0 :: b1 :: b2 :: b3 :: b4 :: rest =>
    (List.range 8).map (codewordOf (groupWord b0 b1 b2 b3 b4)) ++ codewords rest
  | _ => []

/-- The nibble entry of a codeword: its nibble, or the sentinel 0xFF (R113). -/
def nibbleOf (t : Vector Codeword 16) (cw : Codeword) : Byte :=
  match decTab t cw with
  | some v => v.setWidth 8
  | none => nibSentinel

/-- Eight-bit nibble entries packed in pairs: `((n0 << 4) | n1) mod 256` (R114). -/
def packNibbles : List Byte → List Byte
  | n0 :: n1 :: rest => ((n0 <<< 4) ||| n1) :: packNibbles rest
  | _ => []

/-- A diagnostic record: `(phase << 21) | (cw << 16) | pos` (R41, R115). -/
def diagWord (phase : Bool) (cw : Codeword) (pos : Nat) : DiagWord :=
  BitVec.ofBool phase ++ cw ++ BitVec.ofNat 16 pos

/-- The field `pos` of a record: the index of the offending nibble in its decode (R41). -/
def diagPos (d : DiagWord) : BitVec 16 := d.extractLsb' 0 16

/-- The field `cw` of a record: the invalid codeword (R41). -/
def diagCw (d : DiagWord) : Codeword := d.extractLsb' 16 5

/-- The field `phase` of a record: set for the data-block decode of `RDSEC` (R41). -/
def diagPhase (d : DiagWord) : Bool := d.getLsbD 21

/-- The records of the invalid codewords, in order, the first codeword having index `k` (R113). -/
def faultRecords (t : Vector Codeword 16) (phase : Bool) : Nat → List Codeword → List DiagWord
  | _, [] => []
  | k, cw :: rest =>
    if (decTab t cw).isNone then diagWord phase cw k :: faultRecords t phase (k + 1) rest
    else faultRecords t phase (k + 1) rest

/-- What a decode delivers (R110). -/
structure Decoded where
  bytes : List Byte
  nibbles : List Byte
  records : List DiagWord
deriving DecidableEq, Repr

/-- The procedure `gcr_decode` without its writes (R115). -/
def gcrDecode (t : Vector Codeword 16) (phase : Bool) (input : List Byte) : Decoded :=
  let cws := codewords input
  let nibbles := cws.map (nibbleOf t)
  { bytes := packNibbles nibbles, nibbles := nibbles, records := faultRecords t phase 0 cws }

/-- The decode of `WB[0..WLEN)` delivered to `OB`, `NB`, `DIAG` and their counts (R116). -/
def State.putDecoded (s : State) (d : Decoded) : State :=
  ((s.putOutput d.bytes).putNibbles d.nibbles).putDiag 0 d.records

/-- `GCRDEC` as a state change (R116). -/
def gcrdec (s : State) : State :=
  if s.wlen.toNat % groupIn ≠ 0 then
    s.clearDecode.endCommand .eFormat false
  else
    let t := s.putDecoded (gcrDecode s.params.gcrTable false (s.wbBytes s.wlen.toNat))
    t.endCommand .ok t.hasDiag

/-- `GCRDEC` (R116). -/
def execGcrdec (s : State) : Host.Outcome State Fault Refusal := .next (gcrdec s)

end Sys2Proof.Machine
end

