-- ==== Sys2Proof/Machine/Cursor.lean ====
section
/-!
DEFINITION. The bit cursor and the sync-pattern detector (41_bit_cursor_sync.md): `read_bit`,
`read_bytes`, `find_sync` and the commands `RDBIT`, `RDBYTES`, `SYNC`, `RDSEC`.
-/

namespace Sys2Proof.Machine

/-- `RDBIT` as a state change: `read_bit` (R131) and its result (R132). -/
def rdbit (s : State) : State :=
  if s.limit ≤ s.cur.toNat then
    s.endCommand .eShort false
  else
    ((s.setCur (s.cur.toNat + 1)).setBitv (s.tbBit s.cur.toNat)).endCommand .ok false

/-- `RDBIT` (R132). -/
def execRdbit (s : State) : Host.Outcome State Fault Refusal := .next (rdbit s)

/-- What a step of a longer command leaves: it was done, or it ends the command with a code
(R136, R244). -/
inductive Stage
  | done (s : State)
  | failed (c : ResultCode) (s : State)

/-- The next stage, run only where the one before was done: "the first failing step decides the
code; later steps are not run" (R136). -/
def Stage.andThen : Stage → (State → Stage) → Stage
  | .done s, f => f s
  | .failed c s, _ => .failed c s

/-- The state a stage leaves, with the code the command ends with. -/
def Stage.result : Stage → ResultCode × State
  | .done s => (.ok, s)
  | .failed c s => (c, s)

/-- `read_bytes(n)` (R133). -/
def readBytes (n : Nat) (s : State) : Stage :=
  if s.limit - s.cur.toNat < 8 * n then
    .failed .eShort (s.setCur s.limit)
  else
    .done ((s.putWork (s.streamBytes s.cur.toNat n)).setCur (s.cur.toNat + 8 * n))

/-- `RDBYTES` as a state change (R133). -/
def rdbytes (s : State) : State :=
  if Config.wbMax < s.cnt.toNat then
    s.endCommand .eRange false
  else
    let r := (readBytes s.cnt.toNat s).result
    r.2.endCommand r.1 false

/-- `RDBYTES` (R133). -/
def execRdbytes (s : State) : Host.Outcome State Fault Refusal := .next (rdbytes s)

/-- The loop of `find_sync` (R134) over the stream `bit`, with `fuel` bits left to read from
position `cur` and a run of `ones` 1-bits just read: whether a sync was found, and the cursor. -/
def syncScan (bit : Nat → Bool) : (fuel cur ones : Nat) → Bool × Nat
  | 0, cur, _ => (false, cur)
  | fuel + 1, cur, ones =>
    if bit cur then syncScan bit fuel (cur + 1) (min (ones + 1) syncMin)
    else if ones = syncMin then (true, cur)
    else syncScan bit fuel (cur + 1) 0

/-- `find_sync()` (R134): the run counter starts at 0 and the scan covers the bits up to `LIMIT`. -/
def findSync (s : State) : Stage :=
  let r := syncScan s.tbBit (s.limit - s.cur.toNat) s.cur.toNat 0
  if r.1 then .done (s.setCur r.2) else .failed .eSync (s.setCur r.2)

/-- `SYNC` as a state change (R135). -/
def sync (s : State) : State :=
  let r := (findSync s).result
  r.2.endCommand r.1 false

/-- `SYNC` (R135). -/
def execSync (s : State) : Host.Outcome State Fault Refusal := .next (sync s)

/-- The header decode of `RDSEC`: `SH`, `NB[0..16)` and the records of phase 0 (R136). -/
def headerStage (s : State) : Stage :=
  let d := gcrDecode s.params.gcrTable false (s.wbBytes hdrRaw)
  .done (((s.putSh (Vector.ofFn (fun i => d.bytes.getD i.val 0#8))).putNibbles d.nibbles).putDiag 0
    d.records)

/-- The data decode of `RDSEC`: the payload `O[1..257)`, `NB[0..520)` and the records of phase 1
after those of the header (R136). -/
def dataStage (s : State) : Stage :=
  let d := gcrDecode s.params.gcrTable true (s.wbBytes dataRaw)
  .done (((s.putNibbles d.nibbles).putDiag s.diagcnt.toNat d.records).putOutput
    ((d.bytes.drop 1).take stdPayload))

/-- The steps of `RDSEC` in their order (R136). -/
def sectorStages (s : State) : Stage :=
  ((((findSync s.clearDecode).andThen (readBytes hdrRaw)).andThen headerStage).andThen
    findSync).andThen (readBytes dataRaw) |>.andThen dataStage

/-- `RDSEC` as a state change (R136). -/
def rdsec (s : State) : State :=
  let r := (sectorStages s).result
  r.2.endCommand r.1 r.2.hasDiag

/-- `RDSEC` (R136). -/
def execRdsec (s : State) : Host.Outcome State Fault Refusal := .next (rdsec s)

end Sys2Proof.Machine
end

