-- ==== Sys2Proof/Machine/Payload.lean ====
section
/-!
DEFINITION. The payload unscrambler (43_rapidlok_payload.md): the marker search, the triple
unscrambler, and the commands `UNSCR` and `RLPAY`.
-/

namespace Sys2Proof.Machine

/-- `unscramble_triple` as one 16-bit value: the low two bits of each of the eight 3-bit groups of
the 24-bit value, most significant group first, complemented (R193). -/
def tripleWord (b1 b2 b3 : Byte) : BitVec 16 :=
  let v : BitVec 24 := b1 ++ b2 ++ b3
  let kept : BitVec 16 :=
    v.extractLsb' 21 2 ++ v.extractLsb' 18 2 ++ v.extractLsb' 15 2 ++ v.extractLsb' 12 2 ++
    v.extractLsb' 9 2 ++ v.extractLsb' 6 2 ++ v.extractLsb' 3 2 ++ v.extractLsb' 0 2
  kept ^^^ 0xFFFF#16

/-- `unscramble(D)`: two bytes for each whole triple, the high byte first; leftover bytes are
dropped (R192, R194). -/
def unscramble : List Byte → List Byte
  | b1 :: b2 :: b3 :: rest =>
    (tripleWord b1 b2 b3).extractLsb' 8 8 :: (tripleWord b1 b2 b3).extractLsb' 0 8 ::
      unscramble rest
  | _ => []

/-- `UNSCR` as a state change (R195). -/
def unscr (s : State) : State :=
  (s.putPayload (unscramble (s.wbBytes (min s.wlen.toNat rlTake)))).endCommand .ok false

/-- `UNSCR` (R195). -/
def execUnscr (s : State) : Host.Outcome State Fault Refusal := .next (unscr s)

/-- The two marker bytes stand in `TB` at byte position `p` (R191). -/
def State.markerAt (s : State) (p : Nat) : Bool :=
  s.tbByte p == rlMark0 && s.tbByte (p + 1) == rlMark1

/-- `find_marker(s, e)`: the first marker that lies whole inside the window of 32 bytes after the
7-byte header, cut at the end of the span (R191). -/
def State.findMarker (s : State) (st e : Nat) : Option Nat :=
  let w0 := st + rlHdrLen
  let w1 := min (st + rlHdrLen + rlWindow) e
  (List.range' w0 (w1 - 1 - w0)).find? s.markerAt

/-- `RLPAY` as a state change (R196). -/
def rlpay (s : State) : State :=
  let st := s.spanStart.toNat
  let e := s.spanEnd.toNat
  if e < st ∨ s.tblen.toNat < e then
    s.endCommand .eRange false
  else
    match s.findMarker st e with
    | none => s.clearPayload.endCommand .eNoMark false
    | some m =>
      (s.putPayload (unscramble (s.tbSpan (m + 2) (min (m + 2 + rlTake) e)))).endCommand .ok false

/-- `RLPAY` (R196). -/
def execRlpay (s : State) : Host.Outcome State Fault Refusal := .next (rlpay s)

end Sys2Proof.Machine
end

