-- ==== Sys2Proof/Machine/Rapidlok.lean ====
section
/-!
DEFINITION. The Rapidlok header matcher (42_rapidlok_header.md): header synthesis, the literal
scan, and the commands `RLHDR`, `RLFIND`, `RLSWEEP`.
-/

namespace Sys2Proof.Machine

/-- The nibble of `a` or `x` that a place of `PAIR_ORDER` names (R162). -/
def nibbleAt (a x : Byte) : Config.NibbleSource → BitVec 4
  | .xHi => x.extractLsb' 4 4
  | .xLo => x.extractLsb' 0 4
  | .aHi => a.extractLsb' 4 4
  | .aLo => a.extractLsb' 0 4

/-- The 24-bit value of `encode_pair(a, x)` (R162). -/
def pairWord (o : Config.PairOrder) (a x : Byte) : BitVec 24 :=
  t6 (nibbleAt a x o.place0) ++ t6 (nibbleAt a x o.place1) ++
  t6 (nibbleAt a x o.place2) ++ t6 (nibbleAt a x o.place3)

/-- `synthesize_header(track, sector)` (R163). -/
def synthesizeHeader (o : Config.PairOrder) (track sector : Byte) : Vector Byte 7 :=
  let g := pairWord o track sector
  let h := pairWord o (track ^^^ sector ^^^ rlXor) rlXor
  #v[rlLead, g.extractLsb' 16 8, g.extractLsb' 8 8, g.extractLsb' 0 8,
     h.extractLsb' 16 8, h.extractLsb' 8 8, h.extractLsb' 0 8]

/-- `RLHDR` as a state change (R164). -/
def rlhdr (s : State) : State :=
  (s.putHdr (synthesizeHeader s.params.pairOrder s.trk s.sec)).endCommand .ok false

/-- `RLHDR` (R164). -/
def execRlhdr (s : State) : Host.Outcome State Fault Refusal := .next (rlhdr s)

/-- All seven bytes of `h` stand in `TB` from byte position `p` on (R165). -/
def State.headerAt (s : State) (h : Vector Byte 7) (p : Nat) : Bool :=
  (List.finRange 7).all (fun j => s.tbByte (p + j.val) == h[j])

/-- `find_first(H)`: the smallest position in `0 .. TBLEN − 7` where `h` stands (R165). The range
is empty when `TBLEN < 7`. -/
def State.findFirst (s : State) (h : Vector Byte 7) : Option Nat :=
  (List.range (s.tblen.toNat - (rlHdrLen - 1))).find? (s.headerAt h)

/-- `RLFIND` as a state change (R166). -/
def rlfind (s : State) : State :=
  let r := s.findFirst s.hdr
  (s.setPos (posWord r)).endCommand (if r.isNone then .eNoMatch else .ok) false

/-- `RLFIND` (R166). -/
def execRlfind (s : State) : Host.Outcome State Fault Refusal := .next (rlfind s)

/-- The position of slot `i` of track `TRK`, `none` beyond the last slot (R167). -/
def State.slotPos (s : State) (i : Nat) : Option Nat :=
  if i ≤ sectorsPerTrack s.trk then
    s.findFirst (synthesizeHeader s.params.pairOrder s.trk (BitVec.ofNat 8 i))
  else none

/-- The pairs (position, slot) of the found slots, sorted by position ascending (R167). -/
def State.foundSlots (s : State) : List (Nat × Nat) :=
  ((List.range (sectorsPerTrack s.trk + 1)).filterMap
    (fun i => (s.slotPos i).map (fun p => (p, i)))).insertionSort (fun x y => x.1 ≤ y.1)

/-- `RLSWEEP` as a state change (R167). -/
def rlsweep (s : State) : State :=
  let f := s.foundSlots
  (s.putSweep (sectorsPerTrack s.trk + 1) f.length
    (Vector.ofFn (fun i => posWord (s.slotPos i.val)))
    (Vector.ofFn (fun i => (f[i.val]?.map (fun e => BitVec.ofNat 8 e.2)).getD 0xFF#8))
    (Vector.ofFn (fun i => posWord (f[i.val]?.map Prod.fst)))).endCommand .ok false

/-- `RLSWEEP` (R167). -/
def execRlsweep (s : State) : Host.Outcome State Fault Refusal := .next (rlsweep s)

end Sys2Proof.Machine
end

