-- ==== Sys2Proof/Machine/Dispatch.lean ====
section
/-!
DEFINITION. The meaning of each command (30_encoding.md R91).
-/

namespace Sys2Proof.Machine

def exec (i : Instr) (s : State) : Host.Outcome State Fault Refusal :=
  match i with
  | .nop => Sys2Proof.Machine.execNop s
  | .gcrdec => Sys2Proof.Machine.execGcrdec s
  | .rdbit => Sys2Proof.Machine.execRdbit s
  | .rdbytes => Sys2Proof.Machine.execRdbytes s
  | .sync => Sys2Proof.Machine.execSync s
  | .rdsec => Sys2Proof.Machine.execRdsec s
  | .rlhdr => Sys2Proof.Machine.execRlhdr s
  | .rlfind => Sys2Proof.Machine.execRlfind s
  | .rlsweep => Sys2Proof.Machine.execRlsweep s
  | .rlpay => Sys2Proof.Machine.execRlpay s
  | .unscr => Sys2Proof.Machine.execUnscr s
  | .illegal _ => Sys2Proof.Machine.execIllegal s

end Sys2Proof.Machine
end

