-- ==== Sys2Proof/WellFormed.lean ====
section
/-!
DEFINITION. When a command, a host-program line and a parameter set are well formed.
-/

namespace Sys2Proof

/-- A command is well formed when it has an encoding of its own: an illegal opcode is one of 0x0B
to 0xFF (30_encoding.md R93). -/
def Instr.wellFormed : Instr → Bool
  | .nop | .gcrdec | .rdbit | .rdbytes | .sync | .rdsec
  | .rlhdr | .rlfind | .rlsweep | .rlpay | .unscr => true
  | .illegal op => decide (0x0B ≤ op.toNat)

/-- A host-program line is well formed (30_encoding.md R95, R96; 44_control.md R222): an element
index lies in its space, `WRE` names `WB` or `TB`, a loaded byte list fits its buffer, and a command
line names one of the eleven mnemonics. -/
def HostLine.wellFormed : HostLine → Bool
  | .wre sp i _ => (sp == .wb || sp == .tb) && decide (i < Machine.spaceCount sp)
  | .rde sp i => decide (i < Machine.spaceCount sp)
  | .cmd (.illegal _) => false
  | .loadTrack bytes => decide (bytes.length ≤ Config.tbMax)
  | .loadWb bytes | .decodeBytes bytes => decide (bytes.length ≤ Config.wbMax)
  | .wr _ _ | .rd _ | .cmd .nop | .cmd .gcrdec | .cmd .rdbit | .cmd .rdbytes | .cmd .sync
  | .cmd .rdsec | .cmd .rlhdr | .cmd .rlfind | .cmd .rlsweep | .cmd .rlpay | .cmd .unscr
  | .rewind | .rdbytesN _ | .rlhdrOf _ _ | .findSec _ _ | .rlsweepOf _ | .rlpayOf _ _ => true

namespace Config

/-- `PAIR_ORDER` is a permutation of the four nibbles whose first element is the high nibble of `x`
(93_implementation_defined.md U6). -/
def PairOrder.wellFormed (o : PairOrder) : Bool :=
  decide (o.place0 = .xHi) && decide ([o.place0, o.place1, o.place2, o.place3].Nodup)

/-- A parameter set the spec admits: `GCR_TABLE` injective with the four pairs the source states
(U1), `PAIR_ORDER` as U6 says, and a base address that keeps every word 4-byte aligned (R61). -/
def Params.wellFormed (p : Params) : Bool :=
  decide p.gcrTable.toList.Nodup
    && p.gcrTable[0] == 0b01010#5 && p.gcrTable[1] == 0b01011#5
    && p.gcrTable[2] == 0b10010#5 && p.gcrTable[15] == 0b10101#5
    && p.pairOrder.wellFormed
    && decide (p.gdbBase % 4 = 0)

end Config

end Sys2Proof
end

