-- ==== Sys2Proof/Decode.lean ====
section
/-!
DEFINITION. The decoder and the encoder of the command byte (30_encoding.md R90, R91, R93).
-/

namespace Sys2Proof

/-- Why a byte sequence holds no command. -/
inductive DecodeError
  /-- There is no byte: a command is always one byte (R90). -/
  | noByte
deriving DecidableEq, Repr

/-- The command of an opcode byte; total, every opcode from 0x0B on being illegal (R91, R93). -/
def decodeOp (op : Byte) : Instr :=
  match op.toNat with
  | 0x00 => .nop
  | 0x01 => .gcrdec
  | 0x02 => .rdbit
  | 0x03 => .rdbytes
  | 0x04 => .sync
  | 0x05 => .rdsec
  | 0x06 => .rlhdr
  | 0x07 => .rlfind
  | 0x08 => .rlsweep
  | 0x09 => .rlpay
  | 0x0A => .unscr
  | _ => .illegal op

/-- The first command of a byte sequence and the bytes after it (R90: always one byte). -/
def decode : List Byte → Except DecodeError (Instr × List Byte)
  | [] => .error .noByte
  | op :: rest => .ok (decodeOp op, rest)

/-- The opcode byte of a command (R91). -/
def opcode : Instr → Byte
  | .nop => 0x00#8
  | .gcrdec => 0x01#8
  | .rdbit => 0x02#8
  | .rdbytes => 0x03#8
  | .sync => 0x04#8
  | .rdsec => 0x05#8
  | .rlhdr => 0x06#8
  | .rlfind => 0x07#8
  | .rlsweep => 0x08#8
  | .rlpay => 0x09#8
  | .unscr => 0x0A#8
  | .illegal op => op

/-- The bytes of a command (R90: one byte). -/
def encode (i : Instr) : List Byte := [opcode i]

/-- The `n` bytes of the number `w`, least significant byte first: how spec/opcode_table.json
numbers an instruction's bits. -/
def bytesOf : Nat → Nat → List Byte
  | 0, _ => []
  | n + 1, w => BitVec.ofNat 8 w :: bytesOf n (w / 256)

/-- The command the decoder reads from an instruction of `nbits` bits whose value is `w`. -/
def decodeTableWord (nbits w : Nat) : Option Instr :=
  match decode (bytesOf (nbits / 8) w) with
  | .ok (i, _) => some i
  | .error _ => none

end Sys2Proof
end

