-- ==== Sys2Proof/Machine/HostPort.lean ====
section
/-!
DEFINITION. The host port: the host map (20_memory.md R61), host reads and writes (R62, R63;
44_control.md R221, R222), the external reset (70_reset_and_hazards.md R270), and what the next
host event asks of the block.
-/

namespace Sys2Proof.Machine

/-- What a mapped address names (R61). -/
inductive Target
  | reg (r : Reg)
  | elem (sp : Space) (i : Nat)
deriving DecidableEq, Repr

/-- The element of a space at a byte offset of the host map, if it lies in that space (R61). -/
def elemAt (off : Nat) (sp : Space) : Option Target :=
  if spaceBase sp ≤ off ∧ off < spaceBase sp + 4 * spaceCount sp then
    some (.elem sp ((off - spaceBase sp) / 4))
  else none

/-- The register or element at a byte offset of the host map (R61). -/
def targetAt (off : Nat) : Option Target :=
  match allRegs.find? (fun r => regOffset r == off) with
  | some r => some (.reg r)
  | none => allSpaces.findSome? (elemAt off)

/-- The target of a host access of `width` bits at the platform address `addr`, or why the model
refuses the access (R61, R63). -/
def resolve (p : Config.Params) (width addr : Nat) : Except Refusal Target :=
  if width ≠ 32 then .error (.accessWidth width)
  else if addr % 4 ≠ 0 then .error (.misalignedAddress addr)
  else if addr < p.gdbBase then .error (.unmappedAddress addr)
  else
    match targetAt (addr - p.gdbBase) with
    | some t => .ok t
    | none => .error (.unmappedAddress addr)

/-- The word a register reads as: its value, the bits above its width 0 (R21, R61). -/
def State.readReg (s : State) : Reg → Word
  | .cmd => s.cmd.setWidth 32
  | .status => s.status.setWidth 32
  | .tblen => s.tblen.setWidth 32
  | .cur => s.cur.setWidth 32
  | .trk => s.trk.setWidth 32
  | .sec => s.sec.setWidth 32
  | .cnt => s.cnt.setWidth 32
  | .wlen => s.wlen.setWidth 32
  | .spanStart => s.spanStart.setWidth 32
  | .spanEnd => s.spanEnd.setWidth 32
  | .pos => s.pos
  | .olen => s.olen.setWidth 32
  | .rawlen => s.rawlen.setWidth 32
  | .nlen => s.nlen.setWidth 32
  | .diagcnt => s.diagcnt.setWidth 32
  | .bitv => s.bitv.setWidth 32
  | .nfound => s.nfound.setWidth 32
  | .nslot => s.nslot.setWidth 32

/-- The word element `i` of a space reads as: zero-extended, or the signed 32-bit value of `PT` and
`ORDPOS` (R61, R222). -/
def State.readElem (s : State) (i : Nat) : Space → Word
  | .hdr => (s.hdr[i]?.getD 0#8).setWidth 32
  | .sh => (s.sh[i]?.getD 0#8).setWidth 32
  | .pt => s.pt[i]?.getD 0#32
  | .ordsec => (s.ordsec[i]?.getD 0#8).setWidth 32
  | .ordpos => s.ordpos[i]?.getD 0#32
  | .wb => (s.wbByte i).setWidth 32
  | .ob => (s.obByte i).setWidth 32
  | .nb => (s.nbByte i).setWidth 32
  | .diag => (s.diagAt i).setWidth 32
  | .tb => (s.tbByte i).setWidth 32

/-- `HostRead` of a target (R62). -/
def State.readTarget (s : State) : Target → Word
  | .reg r => s.readReg r
  | .elem sp i => s.readElem i sp

/-- `HostWrite` to a register (R62): `TBLEN` clears `CUR`, `CUR` and `WLEN` are clamped, a read-only
register ignores the write. Writing `CMD` stores the opcode; that the command then runs is
`nextAction`'s. -/
def State.writeReg (s : State) (v : Word) : Reg → State
  | .cmd => { s with cmd := v.setWidth 8 }
  | .tblen => { s with tblen := v.setWidth 16, cur := 0#19 }
  | .cur => s.setCur (min (v.setWidth 19).toNat s.limit)
  | .wlen => { s with wlen := BitVec.ofNat 11 (min (v.setWidth 16).toNat Config.wbMax) }
  | .trk => { s with trk := v.setWidth 8 }
  | .sec => { s with sec := v.setWidth 8 }
  | .cnt => { s with cnt := v.setWidth 16 }
  | .spanStart => { s with spanStart := v.setWidth 16 }
  | .spanEnd => { s with spanEnd := v.setWidth 16 }
  | .status | .pos | .olen | .rawlen | .nlen | .diagcnt | .bitv | .nfound | .nslot => s

/-- `HostWrite` to element `i` of a space (R62, R222): only `WB` and `TB` take it. -/
def State.writeElem (s : State) (i : Nat) (v : Word) : Space → State
  | .wb => { s with wb := s.wb.write i (v.setWidth 8) }
  | .tb => { s with tb := s.tb.write i (v.setWidth 8) }
  | .hdr | .sh | .pt | .ordsec | .ordpos | .ob | .nb | .diag => s

/-- `HostWrite` to a target (R62). -/
def State.writeTarget (s : State) (v : Word) : Target → State
  | .reg r => s.writeReg v r
  | .elem sp i => s.writeElem i v sp

/-- The external reset (R270): every register and register-kind table at its reset value, the RAM
contents unspecified again. The parameters, the host's remaining events and its replies are not the
block's and stay (log entry 7). -/
def State.externalReset (s : State) : State :=
  { State.reset with
    params := s.params, ramEpoch := s.ramEpoch + 1, pending := s.pending, replies := s.replies }

/-- What the next host event asks of the block. -/
inductive Action
  /-- The host has issued nothing: the block is idle (R20, R271). -/
  | idle
  /-- A host access the spec gives no meaning (R63). -/
  | refuse (r : Refusal)
  /-- An event that starts no command, and the state after it. -/
  | access (s : State)
  /-- A write to `CMD`: the command it starts, and the state it starts in (R23). -/
  | command (i : Instr) (s : State)
deriving DecidableEq, Repr

/-- The next host event, performed up to the command it may start: a read, a write (R62), the
command fetch of a write to `CMD` (R23, R90: bits 31:8 of the word are ignored), or a reset. An
access to an element its space does not have is refused as an unmapped one (R222). -/
def nextAction (s : State) : Action :=
  match s.pending with
  | [] => .idle
  | .outside sp i :: _ => .refuse (.unmappedElement sp i)
  | .reset :: rest => .access ({ s with pending := rest }).externalReset
  | .read width addr :: rest =>
    match resolve s.params width addr with
    | .error r => .refuse r
    | .ok t => .access { s with pending := rest, replies := s.readTarget t :: s.replies }
  | .write width addr v :: rest =>
    match resolve s.params width addr with
    | .error r => .refuse r
    | .ok (.reg .cmd) =>
      .command (decodeOp (v.setWidth 8)) (({ s with pending := rest }).writeReg v .cmd)
    | .ok t => .access (({ s with pending := rest }).writeTarget v t)

end Sys2Proof.Machine
end

