-- ==== Sys2Proof/Machine/Step.lean ====
section
/-!
DEFINITION. One step of the machine: one host event with the whole command it starts (10_state.md
R20, R23; 20_memory.md R69), and where the host places a command's word for the next step.
-/

namespace Sys2Proof.Machine

/-- One step: the next host event, and the command a write to `CMD` starts (R20, R23, R69). An idle
block stays as it is (R271). -/
def step (s : State) : Host.Outcome State Fault Refusal :=
  match nextAction s with
  | .idle => .next s
  | .refuse r => .refused r
  | .access t => .next t
  | .command i t => exec i t

/-- The state with a write of the command word to `CMD` placed as the next host event: the machine
fetches nothing, a command comes with the host's write (R22, R23; log entry 5). -/
def State.withFetchWord (s : State) (nbits w : Nat) : State :=
  { s with
    pending := .write 32 (s.params.gdbBase + regOffset .cmd) (BitVec.ofNat 32 (w % 2 ^ nbits))
      :: s.pending }

end Sys2Proof.Machine
end

