-- ==== Sys2Proof/Machine/Program.lean ====
section
/-!
DEFINITION. Host programs over the block: the bus accesses of each line (30_encoding.md R95, R96),
the named fields of a standard sector header (10_state.md R43), the standard track pass
(41_bit_cursor_sync.md R137) and the spans of a swept track (42_rapidlok_header.md R169).
-/

namespace Sys2Proof.Machine

/-- `HostWrite(addr(reg), v)` (R95). -/
def regWrite (p : Config.Params) (r : Reg) (v : Word) : HostEvent :=
  .write 32 (p.gdbBase + regOffset r) v

/-- `HostRead(addr(reg))` (R95). -/
def regRead (p : Config.Params) (r : Reg) : HostEvent := .read 32 (p.gdbBase + regOffset r)

/-- The access `e` to element `i` of a space; an index outside the space's element count is an
unmapped address, whatever element of another space stands at base plus 4 times the index (R222). -/
def elemAccess (sp : Space) (i : Nat) (e : HostEvent) : HostEvent :=
  if i < spaceCount sp then e else .outside sp i

/-- `HostWrite(base(space) + 4·i, v)` (R95, R222). -/
def elemWrite (p : Config.Params) (sp : Space) (i : Nat) (v : Word) : HostEvent :=
  elemAccess sp i (.write 32 (p.gdbBase + spaceBase sp + 4 * i) v)

/-- `HostRead(base(space) + 4·i)` (R95, R222). -/
def elemRead (p : Config.Params) (sp : Space) (i : Nat) : HostEvent :=
  elemAccess sp i (.read 32 (p.gdbBase + spaceBase sp + 4 * i))

/-- `HostWrite(0x00, op(mnemonic))` (R95). -/
def commandWrite (p : Config.Params) (i : Instr) : HostEvent :=
  regWrite p .cmd ((opcode i).setWidth 32)

/-- The writes that load a byte list into a space from element `i` on (R96). -/
def loadWrites (p : Config.Params) (sp : Space) : Nat → List Byte → List HostEvent
  | _, [] => []
  | i, b :: bytes => elemWrite p sp i (b.setWidth 32) :: loadWrites p sp (i + 1) bytes

/-- The bus accesses of a line of a host program, a pseudo-command expanded as R96 says (R95,
R96). -/
def lineEvents (p : Config.Params) : HostLine → List HostEvent
  | .wr r v => [regWrite p r v]
  | .rd r => [regRead p r]
  | .wre sp i v => [elemWrite p sp i v]
  | .rde sp i => [elemRead p sp i]
  | .cmd i => [commandWrite p i]
  | .loadTrack bytes =>
    loadWrites p .tb 0 bytes ++ [regWrite p .tblen (BitVec.ofNat 32 bytes.length)]
  | .loadWb bytes =>
    loadWrites p .wb 0 bytes ++ [regWrite p .wlen (BitVec.ofNat 32 bytes.length)]
  | .rewind => [regWrite p .cur 0#32]
  | .decodeBytes bytes =>
    loadWrites p .wb 0 bytes ++
      [regWrite p .wlen (BitVec.ofNat 32 bytes.length), commandWrite p .gcrdec]
  | .rdbytesN n => [regWrite p .cnt n, commandWrite p .rdbytes]
  | .rlhdrOf t s => [regWrite p .trk t, regWrite p .sec s, commandWrite p .rlhdr]
  | .findSec t s =>
    [regWrite p .trk t, regWrite p .sec s, commandWrite p .rlhdr, commandWrite p .rlfind]
  | .rlsweepOf t => [regWrite p .trk t, commandWrite p .rlsweep]
  | .rlpayOf a b => [regWrite p .spanStart a, regWrite p .spanEnd b, commandWrite p .rlpay]

/-- The bus accesses of a host program, top to bottom (R95). -/
def programEvents (p : Config.Params) (lines : List HostLine) : List HostEvent :=
  lines.flatMap (lineEvents p)

/-- The fields of a standard sector header at their places in `SH` (R43). -/
structure SectorHeader where
  blockId : Byte
  blockChecksum : Byte
  sector : Byte
  track : Byte
  formatId0 : Byte
  formatId1 : Byte
deriving DecidableEq, Repr

/-- `SH` read as a header (R43). -/
def State.sectorHeader (s : State) : SectorHeader :=
  { blockId := s.sh[0], blockChecksum := s.sh[1], sector := s.sh[2]
    track := s.sh[3], formatId0 := s.sh[4], formatId1 := s.sh[5] }

/-- `OB[0..OLEN)`: the result bytes the last decode or unscramble delivered (R33). -/
def State.output (s : State) : List Byte := (List.range s.olen.toNat).map s.obByte

/-- What a slot of the track pass holds after its `RDSEC`: the header `SH` with the payload
`OB[0..256)`, absent where the `RDSEC` did not end with `OK` (R137). -/
def State.trackSlot (s : State) : Option (SectorHeader × List Byte) :=
  if s.code = codeBits .ok then some (s.sectorHeader, (List.range stdPayload).map s.obByte) else none

/-- The slots of a track pass from a loaded track on: one `RDSEC` a slot, slot 0 first (R137). -/
def trackPass : Nat → State → List (Option (SectorHeader × List Byte))
  | 0, _ => []
  | slots + 1, s => (rdsec s).trackSlot :: trackPass slots (rdsec s)

/-- The slots of a track: indices 0 to `sectors_per_track(track)` (R137, R160). -/
def trackSlots (track : Byte) : Nat := sectorsPerTrack track + 1

/-- The host program of the track pass of a track: `LOADTRACK`, then one `RDSEC` for each of its
slots (R137). -/
def trackPassLines (track : Byte) (bytes : List Byte) : List HostLine :=
  .loadTrack bytes :: List.replicate (trackSlots track) (.cmd .rdsec)

/-- What `LOADTRACK` leaves: the bytes in `TB` from element 0 on, their number in `TBLEN`, and `CUR`
cleared (R96, R62). -/
def State.loadTrack (s : State) (bytes : List Byte) : State :=
  ({ s with tb := s.tb.writeRange 0 bytes }).writeReg (BitVec.ofNat 32 bytes.length) .tblen

/-- The track pass of a track: its slots, in order, after `LOADTRACK` of its bytes (R137). -/
def standardTrackPass (track : Byte) (bytes : List Byte) (s : State) :
    List (Option (SectorHeader × List Byte)) :=
  trackPass (trackSlots track) (s.loadTrack bytes)

/-- The span of the `i`-th sector in physical order after a sweep: its slot, its start, and its end,
which is the next found position or `TBLEN` (R169). -/
def State.span (s : State) (i : Nat) : Byte × Nat × Nat :=
  (s.ordsec[i]?.getD 0xFF#8,
   (s.ordpos[i]?.getD 0#32).toNat,
   if i + 1 < s.nfound.toNat then (s.ordpos[i + 1]?.getD 0#32).toNat else s.tblen.toNat)

/-- The spans of a swept track in physical order (R169). -/
def State.spans (s : State) : List (Byte × Nat × Nat) := (List.range s.nfound.toNat).map s.span

/-- `RLPAY` over the spans in order: each slot with its payload, absent where `RLPAY` does not end
with `OK` (R169). -/
def payloadPass : List (Byte × Nat × Nat) → State → List (Byte × Option (List Byte))
  | [], _ => []
  | (slot, a, b) :: rest, s =>
    let t := rlpay { s with spanStart := BitVec.ofNat 16 a, spanEnd := BitVec.ofNat 16 b }
    (slot, if t.code = codeBits .ok then some t.output else none) :: payloadPass rest t

end Sys2Proof.Machine
end

