-- ==== Sys2Proof/Safety.lean ====
section
/-!
DEFINITION. What claims about the block speak of: its invariant (10_state.md R49), the states a host
can reach, what a command may leave changed (R46, R48), and the spec's own descriptions of codewords,
sync boundaries, header and marker matches, and kept bits, written apart from the meanings.
-/

namespace Sys2Proof.Machine

/-- A position word is -1 or a byte index of `TB` where seven bytes can stand (R32, R44, R45). -/
def posLegal (w : Word) : Prop := w = 0xFFFFFFFF#32 ∨ w.toNat ≤ 65528

/-- What holds whenever the host can observe the state (R49), with the canonical form and the
capacities of the RAM buffers (R8), the legal result codes (R24), the legal positions (R32, R44,
R45), a set `DF` only over a non-empty log (R25), and well-formed parameters (log entry 15). -/
structure State.Inv (s : State) : Prop where
  cur_le : s.cur.toNat ≤ 8 * s.tblen.toNat
  wlen_le : s.wlen.toNat ≤ 1024
  olen_le : s.olen.toNat ≤ 1024
  rawlen_le : s.rawlen.toNat ≤ 388
  nlen_le : s.nlen.toNat ≤ 2048
  diagcnt_le : s.diagcnt.toNat ≤ 2048
  nfound_le : s.nfound.toNat ≤ s.nslot.toNat
  nslot_le : s.nslot.toNat ≤ 21
  code_le : s.code.toNat ≤ 7
  df_diag : s.df = true → s.diagcnt ≠ 0#12
  pos_legal : posLegal s.pos
  pt_legal : ∀ i : Fin 21, posLegal s.pt[i]
  ordpos_legal : ∀ i : Fin 21, posLegal s.ordpos[i]
  tb_wf : s.tb.wf
  wb_wf : s.wb.wf
  ob_wf : s.ob.wf
  nb_wf : s.nb.wf
  diag_wf : s.diag.wf
  tb_below : s.tb.below Config.tbMax
  wb_below : s.wb.below Config.wbMax
  ob_below : s.ob.below Config.obMax
  nb_below : s.nb.below Config.nbMax
  diag_below : s.diag.below Config.diagMax
  params_wf : s.params.wellFormed = true

/-- The block after power-on under a parameter set, with a host program to issue (R270; log entries
1 and 5). -/
def State.powerOn (p : Config.Params) (events : List HostEvent) : State :=
  { State.reset with params := p, pending := events }

/-- The states a host can bring the block to: any program, any parameters the spec admits. -/
inductive Reachable : State → Prop
  | powerOn (p : Config.Params) (events : List HostEvent) (hp : p.wellFormed = true) :
      Reachable (State.powerOn p events)
  | step {s t : State} (hs : Reachable s) (h : step s = .next t) : Reachable t

/-- The ranges of byte offsets that the host map covers (20_memory.md R61). -/
def hostMapped (off : Nat) : Prop :=
  off ≤ 0x00047 ∨ (0x00100 ≤ off ∧ off ≤ 0x0011B) ∨ (0x00140 ≤ off ∧ off ≤ 0x0015F) ∨
  (0x00200 ≤ off ∧ off ≤ 0x00253) ∨ (0x00300 ≤ off ∧ off ≤ 0x00353) ∨
  (0x00380 ≤ off ∧ off ≤ 0x003D3) ∨ (0x01000 ≤ off ∧ off ≤ 0x01FFF) ∨
  (0x02000 ≤ off ∧ off ≤ 0x02FFF) ∨ (0x04000 ≤ off ∧ off ≤ 0x05FFF) ∨
  (0x06000 ≤ off ∧ off ≤ 0x07FFF) ∨ (0x40000 ≤ off ∧ off ≤ 0x7FFFB)

/-- Every RAM element reads as before, but for those of the byte-wide buffers in `bytes` and those
of `DIAG` in `records` (R46). -/
def ramSameExcept (bytes : Config.ByteRam → Nat → Prop) (records : Nat → Prop)
    (s t : State) : Prop :=
  (∀ r i, ¬ bytes r i → t.ramByte r i = s.ramByte r i) ∧
  ∀ i, ¬ records i → t.diagAt i = s.diagAt i

/-- Every RAM element reads as before (R46). -/
def ramSame (s t : State) : Prop := ramSameExcept (fun _ _ => False) (fun _ => False) s t

/-- The elements `OB[0..n)` (R48). -/
def obUpTo (n : Nat) (r : Config.ByteRam) (i : Nat) : Prop := r = .ob ∧ i < n

/-- The elements `WB[0..n)` (R48). -/
def wbUpTo (n : Nat) (r : Config.ByteRam) (i : Nat) : Prop := r = .wb ∧ i < n

/-- The elements `OB[0..n)` and `NB[0..k)` (R48). -/
def obNbUpTo (n k : Nat) (r : Config.ByteRam) (i : Nat) : Prop :=
  (r = .ob ∧ i < n) ∨ (r = .nb ∧ i < k)

/-- The elements of `WB`, `OB` and `NB` below given indices (R48). -/
def wbObNbUpTo (m n k : Nat) (r : Config.ByteRam) (i : Nat) : Prop :=
  (r = .wb ∧ i < m) ∨ (r = .ob ∧ i < n) ∨ (r = .nb ∧ i < k)

/-- Five bits of a bit stream from position `c` on, the first most significant (R112). -/
def fiveBits (bit : Nat → Bool) (c : Nat) : Codeword :=
  BitVec.ofBool (bit c) ++ BitVec.ofBool (bit (c + 1)) ++ BitVec.ofBool (bit (c + 2)) ++
  BitVec.ofBool (bit (c + 3)) ++ BitVec.ofBool (bit (c + 4))

/-- Bit `m` of `WB` read as one bit stream, byte 0 first and bit 7 first (R112). -/
def State.wbBit (s : State) (m : Nat) : Bool := (s.wbByte (m / 8)).getLsbD (7 - m % 8)

/-- `cw` is no entry of the symbol table (R111). -/
def invalidIn (t : Vector Codeword 16) (cw : Codeword) : Prop := ∀ v : Fin 16, t[v] ≠ cw

/-- `e` is the nibble entry of the codeword `cw`: the nibble it stands for, or the sentinel (R113). -/
def isEntry (t : Vector Codeword 16) (cw : Codeword) (e : Byte) : Prop :=
  (∀ v : Fin 16, t[v] = cw → e = BitVec.ofNat 8 v.val) ∧ (invalidIn t cw → e = 0xFF#8)

/-- The indices below `n` whose codeword is invalid, in order (R113). -/
def badIndices (t : Vector Codeword 16) (cw : Nat → Codeword) (n : Nat) : List Nat :=
  (List.range n).filter (fun k => decide (∀ v : Fin 16, t[v] ≠ cw k))

/-- The diagnostic records of a decode of `n` codewords: phase, codeword, index (R41, R113). -/
def badRecords (t : Vector Codeword 16) (phase : BitVec 1) (cw : Nat → Codeword) (n : Nat) :
    List DiagWord :=
  (badIndices t cw n).map (fun k => phase ++ cw k ++ BitVec.ofNat 16 k)

/-- The packed byte of two nibble entries: `((n0 << 4) | n1) mod 256` (R114). -/
def packedByte (n0 n1 : Byte) : Byte := BitVec.ofNat 8 ((n0.toNat * 16) ||| n1.toNat)

/-- A byte sequence written with the inverse of the symbol table, four bytes to five, each group
packed MSB-first (R111, R117): a test aid, the block has no encoder. -/
def gcrEncode (t : Vector Codeword 16) : List Byte → List Byte
  | p0 :: p1 :: p2 :: p3 :: rest =>
    let cw (b : Byte) : BitVec 10 :=
      t[(b.extractLsb' 4 4).toFin] ++ t[(b.extractLsb' 0 4).toFin]
    let g : BitVec 40 := cw p0 ++ cw p1 ++ cw p2 ++ cw p3
    g.extractLsb' 32 8 :: g.extractLsb' 24 8 :: g.extractLsb' 16 8 :: g.extractLsb' 8 8 ::
      g.extractLsb' 0 8 :: gcrEncode t rest
  | _ => []

/-- Stream bit `k`, below `LIMIT`, is a 0-bit after at least ten 1-bits at or after `c` (R134). -/
def State.syncAt (s : State) (c k : Nat) : Prop :=
  c + 10 ≤ k ∧ k < s.limit ∧ s.tbBit k = false ∧ ∀ j, k - 10 ≤ j → j < k → s.tbBit j = true

/-- `k` is the first sync boundary of the stream at or after `c` (R134). -/
def State.firstSync (s : State) (c k : Nat) : Prop :=
  s.syncAt c k ∧ ∀ k', k' < k → ¬ s.syncAt c k'

/-- No sync boundary lies at or after `c` (R134). -/
def State.noSync (s : State) (c : Nat) : Prop := ∀ k, ¬ s.syncAt c k

/-- The seven bytes of `h` stand at byte position `p`, inside `TB[0..TBLEN)` (R165). -/
def State.headerMatches (s : State) (h : Vector Byte 7) (p : Nat) : Prop :=
  p + 7 ≤ s.tblen.toNat ∧ ∀ j : Fin 7, s.tbByte (p + j.val) = h[j]

/-- `p` is the first position where `h` stands (R165). -/
def State.headerFirst (s : State) (h : Vector Byte 7) (p : Nat) : Prop :=
  s.headerMatches h p ∧ ∀ q, q < p → ¬ s.headerMatches h q

/-- The marker stands at `p`, whole inside the window of the span from `st` to `e` (R191). -/
def State.markerMatches (s : State) (st e p : Nat) : Prop :=
  st + 7 ≤ p ∧ p + 2 ≤ min (st + 39) e ∧ s.tbByte p = 0xFF#8 ∧ s.tbByte (p + 1) = 0x6B#8

/-- `p` is the first marker of the window (R191). -/
def State.markerFirst (s : State) (st e p : Nat) : Prop :=
  s.markerMatches st e p ∧ ∀ q, q < p → ¬ s.markerMatches st e q

/-- The kept bits of a triple's 24-bit value in the order R193 lists them, before the complement. -/
def keptBits (v : BitVec 24) : BitVec 16 :=
  let b (i : Nat) : BitVec 1 := BitVec.ofBool (v.getLsbD i)
  b 22 ++ b 21 ++ b 19 ++ b 18 ++ b 16 ++ b 15 ++ b 13 ++ b 12 ++
  b 10 ++ b 9 ++ b 7 ++ b 6 ++ b 4 ++ b 3 ++ b 1 ++ b 0

/-- What a command may leave changed: the registers and tables of its row in R48, everything else
equal; the RAM elements are `ramFrame`'s. -/
def regFrame (s t : State) : Instr → Prop
  | .nop | .illegal _ => t = { s with status := t.status }
  | .gcrdec =>
    t = { s with
      status := t.status, olen := t.olen, nlen := t.nlen, diagcnt := t.diagcnt
      ob := t.ob, nb := t.nb, diag := t.diag }
  | .rdbit => t = { s with status := t.status, cur := t.cur, bitv := t.bitv }
  | .rdbytes => t = { s with status := t.status, cur := t.cur, wlen := t.wlen, wb := t.wb }
  | .sync => t = { s with status := t.status, cur := t.cur }
  | .rdsec =>
    t = { s with
      status := t.status, cur := t.cur, wlen := t.wlen, olen := t.olen, nlen := t.nlen
      diagcnt := t.diagcnt, sh := t.sh, wb := t.wb, ob := t.ob, nb := t.nb, diag := t.diag }
  | .rlhdr => t = { s with status := t.status, hdr := t.hdr }
  | .rlfind => t = { s with status := t.status, pos := t.pos }
  | .rlsweep =>
    t = { s with
      status := t.status, nslot := t.nslot, nfound := t.nfound
      pt := t.pt, ordsec := t.ordsec, ordpos := t.ordpos }
  | .rlpay | .unscr =>
    t = { s with status := t.status, olen := t.olen, rawlen := t.rawlen, ob := t.ob }

/-- The RAM elements a command may leave changed (R48); every other element reads as before. -/
def ramFrame (s t : State) : Instr → Prop
  | .nop | .illegal _ | .rdbit | .sync | .rlhdr | .rlfind | .rlsweep => ramSame s t
  | .gcrdec =>
    ramSameExcept (obNbUpTo t.olen.toNat t.nlen.toNat) (fun i => i < t.diagcnt.toNat) s t
  | .rdbytes => ramSameExcept (wbUpTo s.cnt.toNat) (fun _ => False) s t
  | .rdsec => ramSameExcept (wbObNbUpTo 325 256 520) (fun i => i < t.diagcnt.toNat) s t
  | .rlpay | .unscr => ramSameExcept (obUpTo t.rawlen.toNat) (fun _ => False) s t

/-- The result codes a command can end with (60_exceptions.md R240). -/
def possibleCodes : Instr → List ResultCode
  | .nop | .rlhdr | .rlsweep | .unscr => [.ok]
  | .gcrdec => [.ok, .eFormat]
  | .rdbit => [.ok, .eShort]
  | .rdbytes => [.ok, .eShort, .eRange]
  | .sync => [.ok, .eSync]
  | .rdsec => [.ok, .eSync, .eShort]
  | .rlfind => [.ok, .eNoMatch]
  | .rlpay => [.ok, .eNoMark, .eRange]
  | .illegal _ => [.eBadCmd]

/-- Two states with the same registers, tables, parameters and host, whose RAM contents may differ
(R64). -/
def sameButRam (s s' : State) : Prop :=
  s' = { s with
    tb := s'.tb, wb := s'.wb, ob := s'.ob, nb := s'.nb, diag := s'.diag, ramEpoch := s'.ramEpoch }

/-- Two such states that also agree on the valid data `TB[0..TBLEN)` and `WB[0..WLEN)` (R64). -/
def agreeOnValid (s s' : State) : Prop :=
  sameButRam s s' ∧ (∀ i, i < s.tblen.toNat → s'.tbByte i = s.tbByte i) ∧
  ∀ i, i < s.wlen.toNat → s'.wbByte i = s.wbByte i

/-- Two states after the same command hold the same RAM results, in the ranges of the command's row
in R48; those of `WB` are valid data, which is `agreeOnValid`'s. `RLPAY` writes none where it ends
with `E_RANGE` (R196). -/
def sameResults (t t' : State) : Instr → Prop
  | .gcrdec | .rdsec =>
    (∀ k, k < t.olen.toNat → t'.obByte k = t.obByte k) ∧
    (∀ k, k < t.nlen.toNat → t'.nbByte k = t.nbByte k) ∧
    ∀ k, k < t.diagcnt.toNat → t'.diagAt k = t.diagAt k
  | .rlpay | .unscr =>
    t.code ≠ codeBits .eRange → ∀ k, k < t.rawlen.toNat → t'.obByte k = t.obByte k
  | .nop | .illegal _ | .rdbit | .rdbytes | .sync | .rlhdr | .rlfind | .rlsweep => True

/-- The 6-bit table entry of the nibble of `a` or `x` that a place of `PAIR_ORDER` names (R161,
R162). -/
def sixBits (a x : Byte) : Config.NibbleSource → BitVec 6
  | .xHi => t6Table[(x.extractLsb' 4 4).toFin]
  | .xLo => t6Table[(x.extractLsb' 0 4).toFin]
  | .aHi => t6Table[(a.extractLsb' 4 4).toFin]
  | .aLo => t6Table[(a.extractLsb' 0 4).toFin]

/-- The four 6-bit values of a pair, in the places of an order (R162). -/
def pairBits (o : Config.PairOrder) (a x : Byte) : BitVec 24 :=
  sixBits a x o.place0 ++ sixBits a x o.place1 ++ sixBits a x o.place2 ++ sixBits a x o.place3

end Sys2Proof.Machine
end

