-- ==== Sys2Proof/Certificates/Slice0/Obligations.lean ====
section
/-!
DEFINITION. The statements about the block that the provers settle, from the numbered rules of
spec/. Nothing is proved here.
-/

open Sys2Proof Sys2Proof.Machine

/-! ## Reset, invariant, step -/

/-- R50: what reset leaves in every register and table, and that the RAM buffers then hold
unspecified values (the free values of log entry 4, in every element). -/
def Obligations.ResetLeavesSpecValues : Prop :=
  let s := State.reset
  (s.cmd = 0x00#8 ∧ s.status = 0#5 ∧ s.tblen = 0#16 ∧ s.cur = 0#19 ∧ s.trk = 0#8 ∧ s.sec = 0#8 ∧
   s.cnt = 0#16 ∧ s.wlen = 0#11 ∧ s.spanStart = 0#16 ∧ s.spanEnd = 0#16 ∧ s.pos.toInt = -1 ∧
   s.olen = 0#11 ∧ s.rawlen = 0#11 ∧ s.nlen = 0#12 ∧ s.diagcnt = 0#12 ∧ s.bitv = 0#1 ∧
   s.nfound = 0#5 ∧ s.nslot = 0#5) ∧
  (∀ i : Fin 7, s.hdr[i] = 0x00#8) ∧ (∀ i : Fin 8, s.sh[i] = 0x00#8) ∧
  (∀ i : Fin 21, s.pt[i].toInt = -1 ∧ s.ordsec[i] = 0xFF#8 ∧ s.ordpos[i].toInt = -1) ∧
  (∀ r i, s.ramByte r i = Config.unwrittenByte s.ramEpoch r i) ∧
  ∀ i, s.diagAt i = Config.unwrittenDiag s.ramEpoch i

/-- The external reset (R270): whatever the state, its step leaves every register and table at the
value of R50, and RAM unspecified again. The parameters, the host's further events and its replies
stay: that is the model's choice (log entry 7). -/
def Obligations.ExternalResetRestoresResetState : Prop :=
  ∀ (s : State) (rest : List HostEvent), s.pending = .reset :: rest →
    ∃ t, step s = .next t ∧
      t = { State.reset with
        params := s.params, ramEpoch := t.ramEpoch, pending := rest, replies := s.replies } ∧
      (∀ r i, t.ramByte r i = Config.unwrittenByte t.ramEpoch r i) ∧
      ∀ i, t.diagAt i = Config.unwrittenDiag t.ramEpoch i

/-- Power-on under any admitted parameters and any host program satisfies the invariant; its clauses
beyond R49 are the model's (log entry 15). -/
def Obligations.PowerOnSatisfiesInvariant : Prop :=
  ∀ (p : Config.Params) (events : List HostEvent), p.wellFormed = true →
    (State.powerOn p events).Inv

/-- Every step keeps the invariant of R49, extended by the canonical form and the bounds of the RAM
buffers (log entry 15), from every state that satisfies it, reachable or not. -/
def Obligations.StepKeepsInvariant : Prop :=
  ∀ s t : State, s.Inv → step s = .next t → t.Inv

/-- Every state a host can bring the block to satisfies the invariant (R49; log entry 15). -/
def Obligations.ReachableStatesSatisfyInvariant : Prop :=
  ∀ s : State, Reachable s → s.Inv

/-- No step changes the parameters: the tables are constants, not state (R21; log entry 1). -/
def Obligations.StepKeepsParameters : Prop :=
  ∀ s t : State, step s = .next t → t.params = s.params

/-- R23, R90: a 32-bit write to `CMD` stores bits 7:0 and runs the command they decode to, bits 31:8
being ignored; the model's step also takes the event off the pending list (log entry 5). -/
def Obligations.StepRunsDecodedCommand : Prop :=
  ∀ (s : State) (v : Word) (rest : List HostEvent), s.params.gdbBase % 4 = 0 →
    s.pending = .write 32 s.params.gdbBase v :: rest →
    ∀ (i : Instr), decode [v.extractLsb' 0 8] = .ok (i, []) →
      i.wellFormed = true ∧
      step s = exec i { s with pending := rest, cmd := v.extractLsb' 0 8 }

/-- R247: from every state every command has exactly one next state; no command faults, is refused
or hangs. -/
def Obligations.EveryCommandHasOneNextState : Prop :=
  ∀ (i : Instr) (s : State), ∃ t, exec i s = .next t ∧ ∀ t', exec i s = .next t' → t' = t

/-! ## Encoding -/

/-- The opcode bytes of all eleven rows of R91, written out, decode to their commands, and the first
and the last byte of the illegal range of R93 to the illegal opcode. -/
def Obligations.OpcodeBytesDecode : Prop :=
  decode [0b00000000#8] = .ok (.nop, []) ∧ decode [0b00000001#8] = .ok (.gcrdec, []) ∧
  decode [0b00000010#8] = .ok (.rdbit, []) ∧ decode [0b00000011#8] = .ok (.rdbytes, []) ∧
  decode [0b00000100#8] = .ok (.sync, []) ∧ decode [0b00000101#8] = .ok (.rdsec, []) ∧
  decode [0b00000110#8] = .ok (.rlhdr, []) ∧ decode [0b00000111#8] = .ok (.rlfind, []) ∧
  decode [0b00001000#8] = .ok (.rlsweep, []) ∧ decode [0b00001001#8] = .ok (.rlpay, []) ∧
  decode [0b00001010#8] = .ok (.unscr, []) ∧
  decode [0b00001011#8] = .ok (.illegal 0x0B#8, []) ∧
  decode [0b11111111#8] = .ok (.illegal 0xFF#8, [])

/-- Decode and encode agree (R90, R91, R93): every well-formed command's one byte decodes to it,
whatever bytes follow, and every byte decodes to a well-formed command whose byte it is. -/
def Obligations.DecodeEncodeAgree : Prop :=
  (∀ (i : Instr) (rest : List Byte), i.wellFormed = true →
    decode (encode i ++ rest) = .ok (i, rest)) ∧
  ∀ (b : Byte) (rest : List Byte), ∃ i : Instr,
    decode (b :: rest) = .ok (i, rest) ∧ i.wellFormed = true ∧ encode i = [b]

/-! ## Control commands, status, frames -/

/-- R220: `NOP` writes `STATUS` 0 and changes nothing else. -/
def Obligations.NopOnlyClearsStatus : Prop :=
  ∀ s : State, ∃ t, exec .nop s = .next t ∧ t = { s with status := 0b00000#5 } ∧ ramSame s t

/-- R93: an illegal opcode written to `CMD` is stored there, ends with `E_BADCMD` and `DF` 0, and
changes nothing else of the block; the model's step also takes the event off the pending list (log
entry 5). -/
def Obligations.IllegalOpcodeReportsBadCommand : Prop :=
  (∀ (op : Byte) (s : State), ∃ t, exec (.illegal op) s = .next t ∧
    t = { s with status := 0b00111#5 } ∧ ramSame s t) ∧
  ∀ (s : State) (v : Word) (rest : List HostEvent), s.params.gdbBase % 4 = 0 →
    s.pending = .write 32 s.params.gdbBase v :: rest → 0x0B ≤ (v.extractLsb' 0 8).toNat →
    ∃ t, step s = .next t ∧
      t = { s with pending := rest, cmd := v.extractLsb' 0 8, status := 0b00111#5 } ∧ ramSame s t

/-- R46, R48: every command changes only the registers, tables and buffer elements its row of R48
lists. -/
def Obligations.CommandsWriteOnlyTheirPlaces : Prop :=
  ∀ (i : Instr) (s t : State), exec i s = .next t → regFrame s t i ∧ ramFrame s t i

/-- R25: `GCRDEC` and `RDSEC` end with `DF` set exactly when `DIAGCNT` is not 0, every other command
with `DF` 0. -/
def Obligations.DecodeFaultFlagRule : Prop :=
  ∀ (i : Instr) (s t : State), exec i s = .next t →
    t.status.getLsbD 4 =
      (if i = .gcrdec ∨ i = .rdsec then decide (t.diagcnt.toNat ≠ 0) else false)

/-- R240: each command ends only with the result codes of its row, so never with 8 to 15. -/
def Obligations.CommandsEndWithTheirCodes : Prop :=
  ∀ (i : Instr) (s t : State), exec i s = .next t →
    ∃ c ∈ possibleCodes i, t.status.extractLsb' 0 4 = codeBits c ∧ t.status.toNat % 16 ≤ 7

/-- R64: a command never reads `TB` from `TBLEN` on nor `WB` from `WLEN` on: two states that agree on
everything but RAM, and on the valid data, end with the same registers and tables, the same valid
data, and the same results in `OB`, `NB` and `DIAG`. -/
def Obligations.CommandsReadOnlyValidData : Prop :=
  ∀ (i : Instr) (s s' t t' : State), agreeOnValid s s' →
    exec i s = .next t → exec i s' = .next t' → agreeOnValid t t' ∧ sameResults t t' i

/-- R271: what each command does right after reset, whose `TBLEN` and `WLEN` are 0. -/
def Obligations.CommandsAfterReset : Prop :=
  let s := State.reset
  (∃ t, exec .sync s = .next t ∧ t.code = codeBits .eSync) ∧
  (∃ t, exec .rdsec s = .next t ∧ t.code = codeBits .eSync) ∧
  (∃ t, exec .rdbit s = .next t ∧ t.code = codeBits .eShort) ∧
  (∃ t, exec .rdbytes s = .next t ∧ t.code = codeBits .ok) ∧
  (∃ t, exec .gcrdec s = .next t ∧ t.code = codeBits .ok ∧ t.olen = 0#11) ∧
  (∃ t, exec .unscr s = .next t ∧ t.code = codeBits .ok ∧ t.olen = 0#11) ∧
  (∃ t, exec .rlhdr s = .next t ∧ t.code = codeBits .ok ∧
    t.hdr.toList = [0x75#8, 0x92#8, 0x49#8, 0x24#8, 0xD6#8, 0xED#8, 0x6E#8]) ∧
  (∃ t, exec .rlfind s = .next t ∧ t.code = codeBits .eNoMatch) ∧
  (∃ t, exec .rlsweep s = .next t ∧ t.code = codeBits .ok ∧ t.nslot = 21#5 ∧ t.nfound = 0#5) ∧
  ∃ t, exec .rlpay s = .next t ∧ t.code = codeBits .eNoMark

/-! ## GCR nibble decoder -/

/-- R111, R112, R113, R114, R116: `GCRDEC` on a whole number of groups. The codewords are the
consecutive 5-bit pieces of `WB` read MSB-first; each nibble entry is the codeword's nibble or 0xFF;
each output byte packs two entries; the log holds one record for each invalid codeword, in order. -/
def Obligations.GcrdecDecodesWholeGroups : Prop :=
  ∀ s : State, s.wlen.toNat % 5 = 0 → s.params.gcrTable.toList.Nodup →
    let n := s.wlen.toNat
    let cw (k : Nat) : Codeword := fiveBits s.wbBit (5 * k)
    let records := badRecords s.params.gcrTable 0#1 cw (8 * n / 5)
    ∃ t, exec .gcrdec s = .next t ∧
      t.olen.toNat = 4 * n / 5 ∧ t.nlen.toNat = 8 * n / 5 ∧ t.diagcnt.toNat = records.length ∧
      (∀ k, k < 8 * n / 5 → isEntry s.params.gcrTable (cw k) (t.nbByte k)) ∧
      (∀ j, j < 4 * n / 5 →
        t.obByte j = packedByte (t.nbByte (2 * j)) (t.nbByte (2 * j + 1))) ∧
      (∀ d, d < records.length → records[d]? = some (t.diagAt d)) ∧
      t.status = (if records = [] then 0b00000#5 else 0b10000#5) ∧
      regFrame s t .gcrdec ∧
      ramSameExcept (obNbUpTo (4 * n / 5) (8 * n / 5)) (fun d => d < records.length) s t

/-- R116, R244: `GCRDEC` with a length that is no multiple of 5 decodes nothing. -/
def Obligations.GcrdecRejectsBadLength : Prop :=
  ∀ s : State, s.wlen.toNat % 5 ≠ 0 →
    ∃ t, exec .gcrdec s = .next t ∧
      t = { s with olen := 0#11, nlen := 0#12, diagcnt := 0#12, status := 0b00011#5 } ∧
      ramSame s t

/-- R117 (1), for any injective symbol table: bytes written with the inverse table and packed
MSB-first are decoded by `GCRDEC` to themselves, with no fault. -/
def Obligations.GcrdecInvertsEncoding : Prop :=
  ∀ (s : State) (plain : List Byte), plain.length % 4 = 0 → plain.length ≤ 816 →
    s.params.gcrTable.toList.Nodup →
    s.wlen.toNat = (gcrEncode s.params.gcrTable plain).length →
    (∀ i, i < s.wlen.toNat → (gcrEncode s.params.gcrTable plain)[i]? = some (s.wbByte i)) →
    ∃ t, exec .gcrdec s = .next t ∧ t.status = 0b00000#5 ∧ t.diagcnt = 0#12 ∧
      t.olen.toNat = plain.length ∧ ∀ i, i < plain.length → plain[i]? = some (t.obByte i)

/-- R117 (2): invalid codewords never abort a batch: the output has full length, an entry of `NB` is
0xFF exactly where the codeword is invalid, and `DIAGCNT` counts them. -/
def Obligations.InvalidCodewordNeverAborts : Prop :=
  ∀ s t : State, s.wlen.toNat % 5 = 0 → exec .gcrdec s = .next t →
    t.nlen.toNat = 8 * s.wlen.toNat / 5 ∧ t.olen.toNat = 4 * s.wlen.toNat / 5 ∧
    (∀ k, k < 8 * s.wlen.toNat / 5 →
      (t.nbByte k = 0xFF#8 ↔ invalidIn s.params.gcrTable (fiveBits s.wbBit (5 * k)))) ∧
    t.diagcnt.toNat =
      ((List.range (8 * s.wlen.toNat / 5)).filter (fun k => t.nbByte k == 0xFF#8)).length

/-! ## Bit cursor and sync detector -/

/-- R131, R132: `RDBIT` before the end reads the stream bit at the cursor and moves on by one; at the
end it reports `E_SHORT` and changes nothing else. -/
def Obligations.RdbitReadsOneBit : Prop :=
  ∀ s : State,
    (s.cur.toNat < 8 * s.tblen.toNat → ∃ t, exec .rdbit s = .next t ∧
      t.bitv = BitVec.ofBool ((s.tbByte (s.cur.toNat / 8)).getLsbD (7 - s.cur.toNat % 8)) ∧
      t.cur.toNat = s.cur.toNat + 1 ∧ t.status = 0b00000#5 ∧
      regFrame s t .rdbit ∧ ramSame s t) ∧
    (8 * s.tblen.toNat ≤ s.cur.toNat → ∃ t, exec .rdbit s = .next t ∧
      t = { s with status := 0b00010#5 } ∧ ramSame s t)

/-- R133: `RDBYTES` with enough bits left delivers `CNT` bytes, bit `7 - b` of byte `j` being stream
bit `CUR + 8j + b`. -/
def Obligations.RdbytesDeliversStreamBytes : Prop :=
  ∀ s : State, s.cnt.toNat ≤ 1024 → s.cur.toNat + 8 * s.cnt.toNat ≤ 8 * s.tblen.toNat →
    ∃ t, exec .rdbytes s = .next t ∧
      (∀ j b, j < s.cnt.toNat → b < 8 →
        (t.wbByte j).getLsbD (7 - b) = s.tbBit (s.cur.toNat + 8 * j + b)) ∧
      t.wlen.toNat = s.cnt.toNat ∧ t.cur.toNat = s.cur.toNat + 8 * s.cnt.toNat ∧
      t.status = 0b00000#5 ∧
      regFrame s t .rdbytes ∧ ramSameExcept (wbUpTo s.cnt.toNat) (fun _ => False) s t

/-- R133, R244: `RDBYTES` with `CNT` above 1024 ends with `E_RANGE`, tested first; with too few bits
left it ends with `E_SHORT` and the cursor at `LIMIT`; nothing else changes. -/
def Obligations.RdbytesFailures : Prop :=
  ∀ s : State, s.cur.toNat ≤ 8 * s.tblen.toNat →
    (1024 < s.cnt.toNat → ∃ t, exec .rdbytes s = .next t ∧
      t = { s with status := 0b00110#5 } ∧ ramSame s t) ∧
    (s.cnt.toNat ≤ 1024 → 8 * s.tblen.toNat < s.cur.toNat + 8 * s.cnt.toNat →
      ∃ t, exec .rdbytes s = .next t ∧ t.cur.toNat = 8 * s.tblen.toNat ∧
        t = { s with cur := t.cur, status := 0b00010#5 } ∧ ramSame s t)

/-- R134, R135: `SYNC` leaves the cursor on the first 0-bit that ends a run of at least ten 1-bits at
or after `CUR`. -/
def Obligations.SyncRestsOnFirstBoundary : Prop :=
  ∀ (s : State) (k : Nat), s.firstSync s.cur.toNat k →
    ∃ t, exec .sync s = .next t ∧ t.cur.toNat = k ∧ t.status = 0b00000#5 ∧
      regFrame s t .sync ∧ ramSame s t

/-- R134, R135: where no run of ten 1-bits with a 0-bit after it lies at or after `CUR`, `SYNC` ends
with `E_SYNC` and the cursor at `LIMIT`. -/
def Obligations.SyncFailsWithoutBoundary : Prop :=
  ∀ s : State, s.cur.toNat ≤ 8 * s.tblen.toNat → s.noSync s.cur.toNat →
    ∃ t, exec .sync s = .next t ∧ t.cur.toNat = 8 * s.tblen.toNat ∧ t.status = 0b00001#5 ∧
      regFrame s t .sync ∧ ramSame s t

/-- R138: ten 1-bits from `CUR` on and then a 0-bit: `SYNC` leaves the cursor at the 0-bit; fewer
than ten 1-bits in a row anywhere: it never finds a sync. -/
def Obligations.SyncBoundaryProperty : Prop :=
  (∀ s : State, (∀ j, j < 10 → s.tbBit (s.cur.toNat + j) = true) →
    s.tbBit (s.cur.toNat + 10) = false → s.cur.toNat + 10 < 8 * s.tblen.toNat →
    ∃ t, exec .sync s = .next t ∧ t.code = codeBits .ok ∧ t.cur.toNat = s.cur.toNat + 10) ∧
  ∀ s : State,
    (∀ p, s.cur.toNat ≤ p → p + 10 ≤ 8 * s.tblen.toNat → ∃ j, j < 10 ∧ s.tbBit (p + j) = false) →
    ∃ t, exec .sync s = .next t ∧ t.code = codeBits .eSync

/-- R136: `RDSEC` on a track with a sync, 80 header bits, a second sync and 2600 data bits after
`CUR`. `SH` holds the packed header codewords, `NB` the entries of the data codewords, `OB` the 256
packed bytes after the leading one, the log the faults of both decodes. -/
def Obligations.RdsecReadsOneSector : Prop :=
  ∀ (s : State) (k1 k2 : Nat), s.params.gcrTable.toList.Nodup →
    s.firstSync s.cur.toNat k1 → k1 + 80 ≤ s.limit →
    s.firstSync (k1 + 80) k2 → k2 + 2600 ≤ s.limit →
    let hcw (k : Nat) : Codeword := fiveBits s.tbBit (k1 + 5 * k)
    let dcw (k : Nat) : Codeword := fiveBits s.tbBit (k2 + 5 * k)
    let records := badRecords s.params.gcrTable 0#1 hcw 16 ++
      badRecords s.params.gcrTable 1#1 dcw 520
    ∃ t, exec .rdsec s = .next t ∧
      t.cur.toNat = k2 + 2600 ∧ t.wlen.toNat = 325 ∧ t.olen.toNat = 256 ∧ t.nlen.toNat = 520 ∧
      t.diagcnt.toNat = records.length ∧
      (∀ j b, j < 325 → b < 8 → (t.wbByte j).getLsbD (7 - b) = s.tbBit (k2 + 8 * j + b)) ∧
      (∀ j : Fin 8, ∃ e0 e1, isEntry s.params.gcrTable (hcw (2 * j)) e0 ∧
        isEntry s.params.gcrTable (hcw (2 * j + 1)) e1 ∧ t.sh[j] = packedByte e0 e1) ∧
      (∀ k, k < 520 → isEntry s.params.gcrTable (dcw k) (t.nbByte k)) ∧
      (∀ j, j < 256 →
        t.obByte j = packedByte (t.nbByte (2 * j + 2)) (t.nbByte (2 * j + 3))) ∧
      (∀ d, d < records.length → records[d]? = some (t.diagAt d)) ∧
      t.status = (if records = [] then 0b00000#5 else 0b10000#5) ∧
      regFrame s t .rdsec ∧
      ramSameExcept (wbObNbUpTo 325 256 520) (fun d => d < records.length) s t

/-- R136, R244: `RDSEC` whose first sync is missing (`E_SYNC`) or whose header is cut off
(`E_SHORT`): nothing is read, the sector is absent, the cursor is at `LIMIT`. -/
def Obligations.RdsecFailsBeforeHeader : Prop :=
  ∀ s : State, s.cur.toNat ≤ 8 * s.tblen.toNat →
    (s.noSync s.cur.toNat → ∃ t, exec .rdsec s = .next t ∧ t.cur.toNat = 8 * s.tblen.toNat ∧
      t = { s with
        cur := t.cur, olen := 0#11, nlen := 0#12, diagcnt := 0#12, status := 0b00001#5 } ∧
      ramSame s t) ∧
    ∀ k1, s.firstSync s.cur.toNat k1 → 8 * s.tblen.toNat < k1 + 80 →
      ∃ t, exec .rdsec s = .next t ∧ t.cur.toNat = 8 * s.tblen.toNat ∧
        t = { s with
          cur := t.cur, olen := 0#11, nlen := 0#12, diagcnt := 0#12, status := 0b00010#5 } ∧
        ramSame s t

/-- R136, R244: `RDSEC` that read a header and then misses the second sync (`E_SYNC`) or the whole
data block (`E_SHORT`): the header's results stay, the sector is absent, the cursor is at `LIMIT`. -/
def Obligations.RdsecFailsAfterHeader : Prop :=
  ∀ (s : State) (k1 : Nat) (late : Bool), s.params.gcrTable.toList.Nodup →
    s.firstSync s.cur.toNat k1 → k1 + 80 ≤ s.limit →
    (if late then ∃ k2, s.firstSync (k1 + 80) k2 ∧ s.limit < k2 + 2600
      else s.noSync (k1 + 80)) →
    let hcw (k : Nat) : Codeword := fiveBits s.tbBit (k1 + 5 * k)
    let records := badRecords s.params.gcrTable 0#1 hcw 16
    ∃ t, exec .rdsec s = .next t ∧
      t.cur.toNat = s.limit ∧ t.wlen.toNat = 10 ∧ t.olen.toNat = 0 ∧ t.nlen.toNat = 16 ∧
      t.diagcnt.toNat = records.length ∧
      (∀ j b, j < 10 → b < 8 → (t.wbByte j).getLsbD (7 - b) = s.tbBit (k1 + 8 * j + b)) ∧
      (∀ j : Fin 8, t.sh[j] = packedByte (t.nbByte (2 * j)) (t.nbByte (2 * j + 1))) ∧
      (∀ k, k < 16 → isEntry s.params.gcrTable (hcw k) (t.nbByte k)) ∧
      (∀ d, d < records.length → records[d]? = some (t.diagAt d)) ∧
      t.code = codeBits (if late then .eShort else .eSync) ∧ t.df = decide (records ≠ []) ∧
      regFrame s t .rdsec ∧
      ramSameExcept (wbObNbUpTo 10 0 16) (fun d => d < records.length) s t

/-- R277: a command that ends with `E_SYNC` or `E_SHORT` leaves the cursor at `LIMIT`; with the cursor
there no command moves it, and every `RDBIT`, `SYNC`, `RDSEC`, and `RDBYTES` with a count above 0,
fails. -/
def Obligations.CursorStaysExhausted : Prop :=
  (∀ (i : Instr) (s t : State), s.cur.toNat ≤ s.limit → exec i s = .next t →
    t.code = codeBits .eSync ∨ t.code = codeBits .eShort → t.cur.toNat = s.limit) ∧
  ∀ s : State, s.cur.toNat = s.limit →
    (∀ (i : Instr) (t : State), exec i s = .next t → t.cur = s.cur ∧ t.limit = s.limit) ∧
    (∃ t, exec .rdbit s = .next t ∧ t.code = codeBits .eShort) ∧
    (∃ t, exec .sync s = .next t ∧ t.code = codeBits .eSync) ∧
    (∃ t, exec .rdsec s = .next t ∧ t.code = codeBits .eSync) ∧
    (0 < s.cnt.toNat → ∃ t, exec .rdbytes s = .next t ∧
      t.code = codeBits (if s.cnt.toNat ≤ 1024 then .eShort else .eRange))

/-- R137: in the standard track pass, after the first failing `RDSEC` every later slot is absent. -/
def Obligations.TrackPassAfterFailureIsAbsent : Prop :=
  ∀ (s t : State) (n : Nat), s.cur.toNat ≤ s.limit → exec .rdsec s = .next t →
    t.code ≠ codeBits .ok → trackPass (n + 1) s = List.replicate (n + 1) none

/-! ## Rapidlok header matcher -/

/-- R161, R162, R163, R164: the seven bytes of `HDR` after `RLHDR` are 0x75 and the two 24-bit values
of four 6-bit table entries, in the places of `PAIR_ORDER`, whatever that order is; the second clause
writes the places out for the spec's order, which is its choice (log entry 3). -/
def Obligations.RlhdrSynthesizesHeader : Prop :=
  ∀ s : State,
    let c : Byte := s.trk ^^^ s.sec ^^^ 0x96#8
    let hi (b : Byte) : BitVec 6 := t6Table[(b.extractLsb' 4 4).toFin]
    let lo (b : Byte) : BitVec 6 := t6Table[(b.extractLsb' 0 4).toFin]
    ∃ t, exec .rlhdr s = .next t ∧
      (let header : BitVec 56 :=
        t.hdr[0] ++ t.hdr[1] ++ t.hdr[2] ++ t.hdr[3] ++ t.hdr[4] ++ t.hdr[5] ++ t.hdr[6]
      header =
        0x75#8 ++ pairBits s.params.pairOrder s.trk s.sec ++
          pairBits s.params.pairOrder c 0x96#8 ∧
      (s.params.pairOrder = pairOrder →
        header = 0x75#8 ++ (hi s.sec ++ lo s.sec ++ hi s.trk ++ lo s.trk) ++
          (0b110101#6 ++ 0b101110#6 ++ hi c ++ lo c))) ∧
      t.status = 0b00000#5 ∧ regFrame s t .rlhdr ∧ ramSame s t

/-- R168 (2), (3): under every admitted `PAIR_ORDER` the headers of two sectors of one track differ
and start with 0x75; under the spec's order byte 4 is 0xD6. -/
def Obligations.HeadersOfATrackAreDistinct : Prop :=
  ∀ (o : Config.PairOrder) (track sector : Byte), o.wellFormed = true →
    (∀ sector', synthesizeHeader o track sector = synthesizeHeader o track sector' →
      sector = sector') ∧
    (synthesizeHeader o track sector)[0] = 0x75#8 ∧
    (synthesizeHeader pairOrder track sector)[4] = 0xD6#8

/-- R165, R166: `RLFIND` delivers the first byte position of `HDR` in `TB[0..TBLEN)`, or -1 with
`E_NOMATCH`. -/
def Obligations.RlfindReportsFirstMatch : Prop :=
  ∀ s : State,
    (∀ p, s.headerFirst s.hdr p → ∃ t, exec .rlfind s = .next t ∧
      t.pos.toInt = (p : Int) ∧ t.status = 0b00000#5 ∧ regFrame s t .rlfind ∧ ramSame s t) ∧
    ((∀ p, ¬ s.headerMatches s.hdr p) → ∃ t, exec .rlfind s = .next t ∧
      t.pos.toInt = -1 ∧ t.status = 0b00100#5 ∧ regFrame s t .rlfind ∧ ramSame s t)

/-- R160, R167, R44: `RLSWEEP` sets `NSLOT`, and in `PT` the first position of each slot's header,
-1 for a slot not found and beyond the last slot. -/
def Obligations.RlsweepFindsEverySlot : Prop :=
  ∀ s : State,
    let total : Nat := if s.trk.toNat ≤ 17 then 20 else if s.trk.toNat ≤ 24 then 18
      else if s.trk.toNat ≤ 30 then 17 else 16
    let header (i : Nat) := synthesizeHeader s.params.pairOrder s.trk (BitVec.ofNat 8 i)
    ∃ t, exec .rlsweep s = .next t ∧ t.nslot.toNat = total + 1 ∧
      (∀ i : Fin 21,
        (i.val ≤ total → ∀ p, s.headerFirst (header i) p → t.pt[i].toInt = (p : Int)) ∧
        (i.val ≤ total → (∀ p, ¬ s.headerMatches (header i) p) → t.pt[i].toInt = -1) ∧
        (total < i.val → t.pt[i].toInt = -1)) ∧
      t.status = 0b00000#5 ∧ regFrame s t .rlsweep ∧ ramSame s t

/-- R45, R167: after `RLSWEEP`, `ORDPOS` and `ORDSEC` list exactly the found slots with their
positions in strictly ascending order of position, -1 and 0xFF beyond them. -/
def Obligations.RlsweepSortsFoundSlots : Prop :=
  ∀ s : State, s.params.pairOrder.wellFormed = true →
    ∃ t, exec .rlsweep s = .next t ∧ t.nfound.toNat ≤ t.nslot.toNat ∧
      (∀ i j : Fin 21, i < j → j.val < t.nfound.toNat → t.ordpos[i].toNat < t.ordpos[j].toNat) ∧
      (∀ i : Fin 21, i.val < t.nfound.toNat → ∃ sl : Fin 21, sl.val < t.nslot.toNat ∧
        t.ordsec[i].toNat = sl.val ∧ t.pt[sl] = t.ordpos[i] ∧ t.ordpos[i].toInt ≠ -1) ∧
      (∀ sl : Fin 21, t.pt[sl].toInt ≠ -1 →
        ∃ i : Fin 21, i.val < t.nfound.toNat ∧ t.ordsec[i].toNat = sl.val) ∧
      (∀ i : Fin 21, t.nfound.toNat ≤ i.val → t.ordpos[i].toInt = -1 ∧ t.ordsec[i] = 0xFF#8)

/-- R169: the spans of a swept track are legal operands of `RLPAY`, each starting before it ends. -/
def Obligations.SweptSpansAreLegal : Prop :=
  ∀ s t : State, s.params.pairOrder.wellFormed = true → exec .rlsweep s = .next t →
    ∀ i, i < t.nfound.toNat →
      (t.span i).2.1 + 7 ≤ t.tblen.toNat ∧ (t.span i).2.1 < (t.span i).2.2 ∧
      (t.span i).2.2 ≤ t.tblen.toNat

/-! ## Payload unscrambler -/

/-- R193: the two bytes of a triple are the complement of its sixteen kept bits in their order, and
the eight other bits never matter; every 16-bit value is the result of some triple (from R199). -/
def Obligations.TripleKeepsSixteenBits : Prop :=
  (∀ b1 b2 b3 : Byte, unscramble [b1, b2, b3] =
    [(~~~ keptBits (b1 ++ b2 ++ b3)).extractLsb' 8 8, (~~~ keptBits (b1 ++ b2 ++ b3)).extractLsb' 0 8]) ∧
  (∀ v v' : BitVec 24, v &&& 0x6DB6DB#24 = v' &&& 0x6DB6DB#24 → keptBits v = keptBits v') ∧
  ∀ w : BitVec 16, ∃ v : BitVec 24, ~~~ keptBits v = w

/-- R193, R194, R195: `UNSCR` unscrambles the whole triples of `WB[0..min(WLEN, 582))`, the high byte
of each first; `OLEN` leaves out the four trailer bytes. -/
def Obligations.UnscrUnscramblesWorkBuffer : Prop :=
  ∀ s : State,
    let triples := min s.wlen.toNat 582 / 3
    ∃ t, exec .unscr s = .next t ∧
      t.rawlen.toNat = 2 * triples ∧ t.olen.toNat = 2 * triples - 4 ∧
      (∀ i, i < triples → (t.obByte (2 * i) ++ t.obByte (2 * i + 1) : BitVec 16) =
        ~~~ keptBits (s.wbByte (3 * i) ++ s.wbByte (3 * i + 1) ++ s.wbByte (3 * i + 2))) ∧
      t.status = 0b00000#5 ∧ regFrame s t .unscr ∧
      ramSameExcept (obUpTo (2 * triples)) (fun _ => False) s t

/-- R191, R196: `RLPAY` on a legal span with a marker at `m` unscrambles the whole triples of the at
most 582 bytes after it, never beyond the span's end. -/
def Obligations.RlpayUnscramblesSpan : Prop :=
  ∀ (s : State) (m : Nat), s.spanStart.toNat ≤ s.spanEnd.toNat →
    s.spanEnd.toNat ≤ s.tblen.toNat → s.markerFirst s.spanStart.toNat s.spanEnd.toNat m →
    let triples := min 582 (s.spanEnd.toNat - (m + 2)) / 3
    let d := m + 2
    ∃ t, exec .rlpay s = .next t ∧
      t.rawlen.toNat = 2 * triples ∧ t.olen.toNat = 2 * triples - 4 ∧
      (∀ i, i < triples → (t.obByte (2 * i) ++ t.obByte (2 * i + 1) : BitVec 16) =
        ~~~ keptBits (s.tbByte (d + 3 * i) ++ s.tbByte (d + 3 * i + 1) ++
          s.tbByte (d + 3 * i + 2))) ∧
      t.status = 0b00000#5 ∧ regFrame s t .rlpay ∧
      ramSameExcept (obUpTo (2 * triples)) (fun _ => False) s t

/-- R196, R191, R244: `RLPAY` on a span outside the valid track data ends with `E_RANGE` and changes
nothing else; on a legal span with no marker in the window it ends with `E_NOMARK` and no output. -/
def Obligations.RlpayFailures : Prop :=
  ∀ s : State,
    (s.spanEnd.toNat < s.spanStart.toNat ∨ s.tblen.toNat < s.spanEnd.toNat →
      ∃ t, exec .rlpay s = .next t ∧ t = { s with status := 0b00110#5 } ∧ ramSame s t) ∧
    (s.spanStart.toNat ≤ s.spanEnd.toNat → s.spanEnd.toNat ≤ s.tblen.toNat →
      (∀ p, ¬ s.markerMatches s.spanStart.toNat s.spanEnd.toNat p) →
      ∃ t, exec .rlpay s = .next t ∧
        t = { s with olen := 0#11, rawlen := 0#11, status := 0b00101#5 } ∧ ramSame s t)

/-- R49, R33, R34, R199 (3): the bounds the result registers keep after the command that writes them.
After an `RLPAY` that ended with `E_RANGE`, which changes neither length (R196), they need not hold
(log entry 17). -/
def Obligations.ResultBoundsAfterCommands : Prop :=
  ∀ s t : State,
    (exec .unscr s = .next t ∨ exec .rlpay s = .next t ∧ t.code ≠ codeBits .eRange →
      t.olen.toNat ≤ t.rawlen.toNat ∧ t.olen.toNat ≤ 384 ∧ t.rawlen.toNat ≤ 388 ∧
      t.rawlen.toNat % 2 = 0) ∧
    (exec .gcrdec s = .next t → s.wlen.toNat ≤ 1024 →
      t.diagcnt.toNat ≤ t.nlen.toNat ∧ t.nlen.toNat ≤ 1632 ∧ t.olen.toNat ≤ 816) ∧
    (exec .rdsec s = .next t → t.diagcnt.toNat ≤ 536 ∧ t.nlen.toNat ≤ 520 ∧ t.olen.toNat ≤ 256) ∧
    (exec .rlfind s = .next t →
      t.pos.toInt = -1 ∨ 0 ≤ t.pos.toInt ∧ t.pos.toInt ≤ (t.tblen.toNat : Int) - 7)

/-- R191: a marker that starts 31 or more bytes after the header is never found. -/
def Obligations.LateMarkerIsNotFound : Prop :=
  ∀ (s t : State), s.spanStart.toNat ≤ s.spanEnd.toNat → s.spanEnd.toNat ≤ s.tblen.toNat →
    (∀ p, s.spanStart.toNat + 7 ≤ p → p ≤ s.spanStart.toNat + 37 →
      s.tbByte p ≠ 0xFF#8 ∨ s.tbByte (p + 1) ≠ 0x6B#8) →
    exec .rlpay s = .next t → t.code = codeBits .eNoMark

/-! ## Host port -/

/-- R62, R61: a 32-bit read at each register's offset answers the register, and at each element's
address the element, zero-extended (`POS`, `PT` and `ORDPOS` as they are), and changes no state of
the block; the model's step also takes the event off the pending list and records the reply (log
entry 5). -/
def Obligations.HostReadAnswersAndChangesNothing : Prop :=
  ∀ (s : State) (rest : List HostEvent), s.params.gdbBase % 4 = 0 →
    let answers (off : Nat) (w : Word) : Prop :=
      s.pending = .read 32 (s.params.gdbBase + off) :: rest →
        step s = .next { s with pending := rest, replies := w :: s.replies }
    (answers 0x00 (s.cmd.setWidth 32) ∧ answers 0x04 (s.status.setWidth 32) ∧
     answers 0x08 (s.tblen.setWidth 32) ∧ answers 0x0C (s.cur.setWidth 32) ∧
     answers 0x10 (s.trk.setWidth 32) ∧ answers 0x14 (s.sec.setWidth 32) ∧
     answers 0x18 (s.cnt.setWidth 32) ∧ answers 0x1C (s.wlen.setWidth 32) ∧
     answers 0x20 (s.spanStart.setWidth 32) ∧ answers 0x24 (s.spanEnd.setWidth 32) ∧
     answers 0x28 s.pos ∧ answers 0x2C (s.olen.setWidth 32) ∧
     answers 0x30 (s.rawlen.setWidth 32) ∧ answers 0x34 (s.nlen.setWidth 32) ∧
     answers 0x38 (s.diagcnt.setWidth 32) ∧ answers 0x3C (s.bitv.setWidth 32) ∧
     answers 0x40 (s.nfound.setWidth 32) ∧ answers 0x44 (s.nslot.setWidth 32)) ∧
    (∀ i : Fin 7, answers (0x00100 + 4 * i.val) (s.hdr[i].setWidth 32)) ∧
    (∀ i : Fin 8, answers (0x00140 + 4 * i.val) (s.sh[i].setWidth 32)) ∧
    (∀ i : Fin 21, answers (0x00200 + 4 * i.val) s.pt[i]) ∧
    (∀ i : Fin 21, answers (0x00300 + 4 * i.val) (s.ordsec[i].setWidth 32)) ∧
    (∀ i : Fin 21, answers (0x00380 + 4 * i.val) s.ordpos[i]) ∧
    (∀ i, i < 1024 → answers (0x01000 + 4 * i) ((s.wbByte i).setWidth 32)) ∧
    (∀ i, i < 1024 → answers (0x02000 + 4 * i) ((s.obByte i).setWidth 32)) ∧
    (∀ i, i < 2048 → answers (0x04000 + 4 * i) ((s.nbByte i).setWidth 32)) ∧
    (∀ i, i < 2048 → answers (0x06000 + 4 * i) ((s.diagAt i).setWidth 32)) ∧
    ∀ i, i < 65535 → answers (0x40000 + 4 * i) ((s.tbByte i).setWidth 32)

/-- R62, R26, R27, R30: a 32-bit write to a register other than `CMD`: `TBLEN` takes bits 15:0 and
clears `CUR`, `CUR` takes `min(v[18:0], 8·TBLEN)`, `WLEN` takes `min(v[15:0], 1024)`, the operand
registers take their bits, a read-only register ignores the write; `STATUS` never changes. The
pending list is the model's (log entry 5). -/
def Obligations.HostRegisterWrites : Prop :=
  ∀ (s : State) (v : Word) (rest : List HostEvent) (r : Reg), s.params.gdbBase % 4 = 0 →
    s.pending = .write 32 (s.params.gdbBase + regOffset r) v :: rest → r ≠ .cmd →
    ∃ t, step s = .next t ∧ ramSame s t ∧
      match r with
      | .tblen => t = { s with pending := rest, tblen := v.extractLsb' 0 16, cur := 0#19 }
      | .cur => t = { s with pending := rest, cur := t.cur } ∧
          t.cur.toNat = min (v.extractLsb' 0 19).toNat (8 * s.tblen.toNat)
      | .wlen => t = { s with pending := rest, wlen := t.wlen } ∧
          t.wlen.toNat = min (v.extractLsb' 0 16).toNat 1024
      | .trk => t = { s with pending := rest, trk := v.extractLsb' 0 8 }
      | .sec => t = { s with pending := rest, sec := v.extractLsb' 0 8 }
      | .cnt => t = { s with pending := rest, cnt := v.extractLsb' 0 16 }
      | .spanStart => t = { s with pending := rest, spanStart := v.extractLsb' 0 16 }
      | .spanEnd => t = { s with pending := rest, spanEnd := v.extractLsb' 0 16 }
      | .cmd | .status | .pos | .olen | .rawlen | .nlen | .diagcnt | .bitv | .nfound
      | .nslot => t = { s with pending := rest }

/-- R62, R222: a 32-bit write to an element of `WB` or `TB` stores bits 7:0 there and nowhere else,
and moves neither a length nor the cursor; to an element of any other space it is ignored. The
pending list is the model's (log entry 5). -/
def Obligations.HostElementWrites : Prop :=
  ∀ (s : State) (v : Word) (rest : List HostEvent) (sp : Space) (i : Nat),
    s.params.gdbBase % 4 = 0 → i < spaceCount sp →
    s.pending = .write 32 (s.params.gdbBase + spaceBase sp + 4 * i) v :: rest →
    ∃ t, step s = .next t ∧
      match sp with
      | .wb => t = { s with pending := rest, wb := t.wb } ∧ t.wbByte i = v.extractLsb' 0 8 ∧
          ramSameExcept (fun r j => r = .wb ∧ j = i) (fun _ => False) s t
      | .tb => t = { s with pending := rest, tb := t.tb } ∧ t.tbByte i = v.extractLsb' 0 8 ∧
          ramSameExcept (fun r j => r = .tb ∧ j = i) (fun _ => False) s t
      | .hdr | .sh | .pt | .ordsec | .ordpos | .ob | .nb | .diag =>
          t = { s with pending := rest } ∧ ramSame s t

/-- R63, R222: the model refuses a read or a write that is not 32 bits wide, not 4-byte aligned, or
outside the ranges of R61, and an access to an element its space does not have, and no other step:
every other read or write, the reset and an idle block have a next state (log entries 5, 6 and 8). -/
def Obligations.OnlyUnmappedAccessesAreRefused : Prop :=
  ∀ s : State, s.params.gdbBase % 4 = 0 →
    ((∃ r, step s = .refused r) ↔
      (∃ (width addr : Nat) (rest : List HostEvent),
        (s.pending = .read width addr :: rest ∨ ∃ v, s.pending = .write width addr v :: rest) ∧
        ¬ (width = 32 ∧ addr % 4 = 0 ∧ s.params.gdbBase ≤ addr ∧
          hostMapped (addr - s.params.gdbBase))) ∨
      ∃ (sp : Space) (i : Nat) (rest : List HostEvent), s.pending = .outside sp i :: rest)

/-- R96, R272: `LOADTRACK` of `n` bytes is `n + 1` accesses after which `TB[0..n)` holds the bytes,
`TBLEN` is `n` and `CUR` is 0; no other state of the block changes. The pending list is the model's
(log entry 5). -/
def Obligations.LoadtrackLoadsTheTrack : Prop :=
  ∀ (s : State) (bytes : List Byte) (rest : List HostEvent), s.params.gdbBase % 4 = 0 →
    bytes.length ≤ 65535 → s.pending = lineEvents s.params (.loadTrack bytes) ++ rest →
    ∃ t, Sys2Proof.core.run (bytes.length + 1) s = .next t ∧
      (∀ i, i < bytes.length → bytes[i]? = some (t.tbByte i)) ∧
      t.tblen.toNat = bytes.length ∧ t.cur = 0#19 ∧
      t = { s with pending := rest, tb := t.tb, tblen := t.tblen, cur := t.cur } ∧
      ramSameExcept (fun r i => r = .tb ∧ i < bytes.length) (fun _ => False) s t

/-- 10_state.md section 2, R60, R61: the offset of every register, and the base and the number of
elements of every space, in numbers. -/
def Obligations.HostMapOffsets : Prop :=
  (regOffset .cmd = 0x00 ∧ regOffset .status = 0x04 ∧ regOffset .tblen = 0x08 ∧
   regOffset .cur = 0x0C ∧ regOffset .trk = 0x10 ∧ regOffset .sec = 0x14 ∧
   regOffset .cnt = 0x18 ∧ regOffset .wlen = 0x1C ∧ regOffset .spanStart = 0x20 ∧
   regOffset .spanEnd = 0x24 ∧ regOffset .pos = 0x28 ∧ regOffset .olen = 0x2C ∧
   regOffset .rawlen = 0x30 ∧ regOffset .nlen = 0x34 ∧ regOffset .diagcnt = 0x38 ∧
   regOffset .bitv = 0x3C ∧ regOffset .nfound = 0x40 ∧ regOffset .nslot = 0x44) ∧
  (spaceBase .hdr = 0x00100 ∧ spaceBase .sh = 0x00140 ∧ spaceBase .pt = 0x00200 ∧
   spaceBase .ordsec = 0x00300 ∧ spaceBase .ordpos = 0x00380 ∧ spaceBase .wb = 0x01000 ∧
   spaceBase .ob = 0x02000 ∧ spaceBase .nb = 0x04000 ∧ spaceBase .diag = 0x06000 ∧
   spaceBase .tb = 0x40000) ∧
  (spaceCount .hdr = 7 ∧ spaceCount .sh = 8 ∧ spaceCount .pt = 21 ∧ spaceCount .ordsec = 21 ∧
   spaceCount .ordpos = 21 ∧ spaceCount .wb = 1024 ∧ spaceCount .ob = 1024 ∧
   spaceCount .nb = 2048 ∧ spaceCount .diag = 2048 ∧ spaceCount .tb = 65535)

/-- R161: the sixteen entries of the 6-bit table, and the default parameters: of the symbol table of
R111 all but the entries 0, 1, 2 and 15 are general knowledge (log entry 2), of `PAIR_ORDER` all but
the first place is the spec's choice (log entry 3). -/
def Obligations.ConstantTables : Prop :=
  t6Table.toList =
    [0b100100#6, 0b100101#6, 0b100110#6, 0b100111#6, 0b101100#6, 0b101101#6, 0b101110#6,
     0b101111#6, 0b110100#6, 0b110101#6, 0b110110#6, 0b110111#6, 0b111100#6, 0b111101#6,
     0b111010#6, 0b111011#6] ∧
  State.reset.params.gcrTable.toList =
    [0x0A#5, 0x0B#5, 0x12#5, 0x13#5, 0x0E#5, 0x0F#5, 0x16#5, 0x17#5,
     0x09#5, 0x19#5, 0x1A#5, 0x1B#5, 0x0D#5, 0x1D#5, 0x1E#5, 0x15#5] ∧
  State.reset.params.pairOrder = ⟨.xHi, .xLo, .aHi, .aLo⟩

/-- R222, R63: the access of a line `RDE space, i` or `WRE space, i, v` is refused exactly when the
space has no element `i`, whatever stands at base plus 4 times `i`. The pending list is the model's
(log entry 5), and so is the form of the refused event (log entry 6). -/
def Obligations.OutOfRangeElementsAreRefused : Prop :=
  ∀ (s : State) (sp : Space) (i : Nat) (v : Word) (rest : List HostEvent),
    s.params.gdbBase % 4 = 0 →
    s.pending = lineEvents s.params (.rde sp i) ++ rest ∨
      s.pending = lineEvents s.params (.wre sp i v) ++ rest →
    ((∃ r, step s = .refused r) ↔ spaceCount sp ≤ i) ∧
    ((∃ t, step s = .next t) ↔ i < spaceCount sp)

/-- R137, R160, R43: the host program of the track pass, `LOADTRACK` and one `RDSEC` for each of
`sectors_per_track(track) + 1` slots, runs on the block, and slot `k` of the pass is what the block
then shows: the header `SH` and the payload `OB[0..256)` if `STATUS.code` is `OK`, else nothing. The
pending list is the model's (log entry 5); the events of the host's own reads are left out. -/
def Obligations.StandardTrackPassRunsOnTheBlock : Prop :=
  ∀ (s : State) (track : Byte) (bytes : List Byte) (rest : List HostEvent),
    s.params.gdbBase % 4 = 0 → bytes.length ≤ 65535 →
    s.pending = programEvents s.params (trackPassLines track bytes) ++ rest →
    let slots : Nat := if track.toNat ≤ 17 then 21 else if track.toNat ≤ 24 then 19
      else if track.toNat ≤ 30 then 18 else 17
    let pass := standardTrackPass track bytes s
    pass.length = slots ∧
    (∀ k, k < slots → ∃ t, Sys2Proof.core.run (bytes.length + 1 + (k + 1)) s = .next t ∧
      pass[k]? = some (if t.code = codeBits .ok then
        some (⟨t.sh[0], t.sh[1], t.sh[2], t.sh[3], t.sh[4], t.sh[5]⟩,
          (List.range 256).map t.obByte) else none)) ∧
    ∃ t, Sys2Proof.core.run (bytes.length + 1 + slots) s = .next t ∧ t.pending = rest
end

