-- ==== Sys2Proof/Laws/Memory.lean ====
section
/-!
SUPPORT. The laws of a memory: a read after a write, and the canonical form every operation keeps.
-/

namespace Sys2Proof.Machine

variable {α : Type}

@[simp] theorem Memory.get?_nil (a : Nat) : Memory.get? a ([] : Memory α) = none := rfl

theorem Memory.get?_cons (a b : Nat) (v : α) (m : Memory α) :
    Memory.get? a ((b, v) :: m) = if a = b then some v else Memory.get? a m := rfl

/-- A read after a write to the same index gives the value written. -/
@[simp] theorem Memory.get?_write_same (a : Nat) (v : α) (m : Memory α) :
    (m.write a v).get? a = some v := by
  induction m with
  | nil => simp [Memory.write, Memory.get?]
  | cons c m ih =>
    obtain ⟨b, w⟩ := c
    unfold Memory.write
    split
    · simp [Memory.get?]
    · split
      · simp [Memory.get?]
      · simp only [Memory.get?_cons, if_neg ‹¬a = b›, ih]

/-- A write leaves every other index alone. -/
theorem Memory.get?_write_other {a i : Nat} (h : i ≠ a) (v : α) (m : Memory α) :
    (m.write a v).get? i = m.get? i := by
  induction m with
  | nil => simp [Memory.write, Memory.get?, h]
  | cons c m ih =>
    obtain ⟨b, w⟩ := c
    unfold Memory.write
    split
    · simp [Memory.get?_cons, h]
    · split
      · subst a
        simp [Memory.get?_cons, h]
      · simp only [Memory.get?_cons, ih]

theorem Memory.get?_write (a i : Nat) (v : α) (m : Memory α) :
    (m.write a v).get? i = if i = a then some v else m.get? i := by
  split
  · subst i; simp
  · exact Memory.get?_write_other ‹_› v m

/-- A run of writes gives its values at its own indices and leaves every other index alone. -/
theorem Memory.get?_writeRange (base i : Nat) (vs : List α) (m : Memory α) :
    (m.writeRange base vs).get? i =
      if base ≤ i ∧ i < base + vs.length then vs[i - base]? else m.get? i := by
  induction vs generalizing base m with
  | nil => simp [Memory.writeRange]
  | cons v vs ih =>
    rw [Memory.writeRange, ih, Memory.get?_write]
    by_cases hi : i = base
    · subst i; simp
    · by_cases hr : base + 1 ≤ i ∧ i < base + 1 + vs.length
      · have hs : i - base = (i - (base + 1)) + 1 := by omega
        rw [if_pos hr, if_pos (by simp; omega), hs, List.getElem?_cons_succ]
      · rw [if_neg hr, if_neg hi, if_neg (by simp; omega)]

/-- Every index of a write is the index written or one listed before. -/
theorem Memory.mem_write {a : Nat} {v : α} {m : Memory α} {c : Nat × α}
    (h : c ∈ m.write a v) : c = (a, v) ∨ c ∈ m := by
  induction m with
  | nil => simp [Memory.write] at h; exact .inl h
  | cons d m ih =>
    obtain ⟨b, w⟩ := d
    unfold Memory.write at h
    split at h
    · simpa using h
    · split at h
      · rcases List.mem_cons.1 h with h | h
        · exact .inl h
        · exact .inr (List.mem_cons_of_mem _ h)
      · rcases List.mem_cons.1 h with h | h
        · exact .inr (h ▸ List.mem_cons_self)
        · exact (ih h).imp_right (List.mem_cons_of_mem _)

/-- A write keeps the canonical form. -/
theorem Memory.wf_write (a : Nat) (v : α) {m : Memory α} (h : m.wf) : (m.write a v).wf := by
  induction m with
  | nil => simp [Memory.write, Memory.wf]
  | cons c m ih =>
    obtain ⟨b, w⟩ := c
    obtain ⟨hb, hm⟩ := List.pairwise_cons.1 h
    unfold Memory.write
    split
    · refine List.pairwise_cons.2 ⟨fun d hd => ?_, h⟩
      rcases List.mem_cons.1 hd with rfl | hd
      · assumption
      · exact Nat.lt_trans ‹a < b› (hb d hd)
    · split
      · subst a
        exact List.pairwise_cons.2 ⟨hb, hm⟩
      · refine List.pairwise_cons.2 ⟨fun d hd => ?_, ih hm⟩
        rcases Memory.mem_write hd with rfl | hd
        · show b < a
          omega
        · exact hb d hd

/-- A run of writes keeps the canonical form. -/
theorem Memory.wf_writeRange (base : Nat) (vs : List α) {m : Memory α} (h : m.wf) :
    (m.writeRange base vs).wf := by
  induction vs generalizing base m with
  | nil => exact h
  | cons v vs ih => exact ih (base + 1) (Memory.wf_write base v h)

/-- A write below the capacity keeps every index below it. -/
theorem Memory.below_write {cap a : Nat} (v : α) {m : Memory α} (ha : a < cap)
    (h : m.below cap) : (m.write a v).below cap := by
  intro c hc
  rcases Memory.mem_write hc with rfl | hc
  · exact ha
  · exact h c hc

/-- A run of writes below the capacity keeps every index below it. -/
theorem Memory.below_writeRange {cap base : Nat} (vs : List α) {m : Memory α}
    (hb : base + vs.length ≤ cap) (h : m.below cap) : (m.writeRange base vs).below cap := by
  induction vs generalizing base m with
  | nil => exact h
  | cons v vs ih =>
    rw [List.length_cons] at hb
    exact ih (base := base + 1) (by omega) (Memory.below_write v (by omega) h)

/-- An index below every listed one has no value. -/
theorem Memory.get?_eq_none_of_lt {a : Nat} {m : Memory α} (h : ∀ c ∈ m, a < c.1) :
    m.get? a = none := by
  induction m with
  | nil => rfl
  | cons c m ih =>
    have hc : a < c.1 := h c List.mem_cons_self
    rw [Memory.get?_cons, if_neg (by omega)]
    exact ih (fun d hd => h d (List.mem_cons_of_mem _ hd))

/-- Memories in canonical form that read alike are equal data. -/
theorem Memory.ext_of_wf {m m' : Memory α} (h : m.wf) (h' : m'.wf)
    (he : ∀ a, m.get? a = m'.get? a) : m = m' := by
  induction m generalizing m' with
  | nil =>
    cases m' with
    | nil => rfl
    | cons c m' => simpa [Memory.get?] using he c.1
  | cons c m ih =>
    obtain ⟨b, v⟩ := c
    obtain ⟨hb, hm⟩ := List.pairwise_cons.1 h
    cases m' with
    | nil => simpa [Memory.get?] using he b
    | cons c' m' =>
      obtain ⟨b', v'⟩ := c'
      obtain ⟨hb', hm'⟩ := List.pairwise_cons.1 h'
      have hbb : b = b' := by
        rcases Nat.lt_trichotomy b b' with hlt | heq | hlt
        · have := he b
          rw [Memory.get?_cons, if_pos rfl, Memory.get?_cons, if_neg (by omega),
            Memory.get?_eq_none_of_lt (fun d hd => Nat.lt_trans hlt (hb' d hd))] at this
          exact absurd this (by simp)
        · exact heq
        · have := he b'
          rw [Memory.get?_cons, if_neg (by omega), Memory.get?_cons, if_pos rfl,
            Memory.get?_eq_none_of_lt (fun d hd => Nat.lt_trans hlt (hb d hd))] at this
          exact absurd this (by simp)
      subst b'
      have hv : v = v' := by simpa [Memory.get?] using he b
      subst v'
      rw [ih hm hm' (fun a => ?_)]
      by_cases hab : a = b
      · rw [hab, Memory.get?_eq_none_of_lt hb, Memory.get?_eq_none_of_lt hb']
      · simpa [Memory.get?_cons, hab] using he a

end Sys2Proof.Machine
end

