-- ==== Sys2Proof/Laws/State.lean ====
section
/-!
SUPPORT. For every update a command makes, what each field of the state holds after it.
-/

namespace Sys2Proof.Machine

@[simp] theorem State.setCur_cmd (s : State) (n : Nat) : (s.setCur n).cmd = s.cmd := rfl
@[simp] theorem State.setCur_status (s : State) (n : Nat) : (s.setCur n).status = s.status := rfl
@[simp] theorem State.setCur_tblen (s : State) (n : Nat) : (s.setCur n).tblen = s.tblen := rfl
@[simp] theorem State.setCur_cur (s : State) (n : Nat) : (s.setCur n).cur = BitVec.ofNat 19 n := rfl
@[simp] theorem State.setCur_trk (s : State) (n : Nat) : (s.setCur n).trk = s.trk := rfl
@[simp] theorem State.setCur_sec (s : State) (n : Nat) : (s.setCur n).sec = s.sec := rfl
@[simp] theorem State.setCur_cnt (s : State) (n : Nat) : (s.setCur n).cnt = s.cnt := rfl
@[simp] theorem State.setCur_wlen (s : State) (n : Nat) : (s.setCur n).wlen = s.wlen := rfl
@[simp] theorem State.setCur_spanStart (s : State) (n : Nat) : (s.setCur n).spanStart = s.spanStart := rfl
@[simp] theorem State.setCur_spanEnd (s : State) (n : Nat) : (s.setCur n).spanEnd = s.spanEnd := rfl
@[simp] theorem State.setCur_pos (s : State) (n : Nat) : (s.setCur n).pos = s.pos := rfl
@[simp] theorem State.setCur_olen (s : State) (n : Nat) : (s.setCur n).olen = s.olen := rfl
@[simp] theorem State.setCur_rawlen (s : State) (n : Nat) : (s.setCur n).rawlen = s.rawlen := rfl
@[simp] theorem State.setCur_nlen (s : State) (n : Nat) : (s.setCur n).nlen = s.nlen := rfl
@[simp] theorem State.setCur_diagcnt (s : State) (n : Nat) : (s.setCur n).diagcnt = s.diagcnt := rfl
@[simp] theorem State.setCur_bitv (s : State) (n : Nat) : (s.setCur n).bitv = s.bitv := rfl
@[simp] theorem State.setCur_nfound (s : State) (n : Nat) : (s.setCur n).nfound = s.nfound := rfl
@[simp] theorem State.setCur_nslot (s : State) (n : Nat) : (s.setCur n).nslot = s.nslot := rfl
@[simp] theorem State.setCur_hdr (s : State) (n : Nat) : (s.setCur n).hdr = s.hdr := rfl
@[simp] theorem State.setCur_sh (s : State) (n : Nat) : (s.setCur n).sh = s.sh := rfl
@[simp] theorem State.setCur_pt (s : State) (n : Nat) : (s.setCur n).pt = s.pt := rfl
@[simp] theorem State.setCur_ordsec (s : State) (n : Nat) : (s.setCur n).ordsec = s.ordsec := rfl
@[simp] theorem State.setCur_ordpos (s : State) (n : Nat) : (s.setCur n).ordpos = s.ordpos := rfl
@[simp] theorem State.setCur_tb (s : State) (n : Nat) : (s.setCur n).tb = s.tb := rfl
@[simp] theorem State.setCur_wb (s : State) (n : Nat) : (s.setCur n).wb = s.wb := rfl
@[simp] theorem State.setCur_ob (s : State) (n : Nat) : (s.setCur n).ob = s.ob := rfl
@[simp] theorem State.setCur_nb (s : State) (n : Nat) : (s.setCur n).nb = s.nb := rfl
@[simp] theorem State.setCur_diag (s : State) (n : Nat) : (s.setCur n).diag = s.diag := rfl
@[simp] theorem State.setCur_params (s : State) (n : Nat) : (s.setCur n).params = s.params := rfl
@[simp] theorem State.setCur_ramEpoch (s : State) (n : Nat) : (s.setCur n).ramEpoch = s.ramEpoch := rfl
@[simp] theorem State.setCur_pending (s : State) (n : Nat) : (s.setCur n).pending = s.pending := rfl
@[simp] theorem State.setCur_replies (s : State) (n : Nat) : (s.setCur n).replies = s.replies := rfl

@[simp] theorem State.setBitv_cmd (s : State) (b : Bool) : (s.setBitv b).cmd = s.cmd := rfl
@[simp] theorem State.setBitv_status (s : State) (b : Bool) : (s.setBitv b).status = s.status := rfl
@[simp] theorem State.setBitv_tblen (s : State) (b : Bool) : (s.setBitv b).tblen = s.tblen := rfl
@[simp] theorem State.setBitv_cur (s : State) (b : Bool) : (s.setBitv b).cur = s.cur := rfl
@[simp] theorem State.setBitv_trk (s : State) (b : Bool) : (s.setBitv b).trk = s.trk := rfl
@[simp] theorem State.setBitv_sec (s : State) (b : Bool) : (s.setBitv b).sec = s.sec := rfl
@[simp] theorem State.setBitv_cnt (s : State) (b : Bool) : (s.setBitv b).cnt = s.cnt := rfl
@[simp] theorem State.setBitv_wlen (s : State) (b : Bool) : (s.setBitv b).wlen = s.wlen := rfl
@[simp] theorem State.setBitv_spanStart (s : State) (b : Bool) : (s.setBitv b).spanStart = s.spanStart := rfl
@[simp] theorem State.setBitv_spanEnd (s : State) (b : Bool) : (s.setBitv b).spanEnd = s.spanEnd := rfl
@[simp] theorem State.setBitv_pos (s : State) (b : Bool) : (s.setBitv b).pos = s.pos := rfl
@[simp] theorem State.setBitv_olen (s : State) (b : Bool) : (s.setBitv b).olen = s.olen := rfl
@[simp] theorem State.setBitv_rawlen (s : State) (b : Bool) : (s.setBitv b).rawlen = s.rawlen := rfl
@[simp] theorem State.setBitv_nlen (s : State) (b : Bool) : (s.setBitv b).nlen = s.nlen := rfl
@[simp] theorem State.setBitv_diagcnt (s : State) (b : Bool) : (s.setBitv b).diagcnt = s.diagcnt := rfl
@[simp] theorem State.setBitv_bitv (s : State) (b : Bool) : (s.setBitv b).bitv = BitVec.ofBool b := rfl
@[simp] theorem State.setBitv_nfound (s : State) (b : Bool) : (s.setBitv b).nfound = s.nfound := rfl
@[simp] theorem State.setBitv_nslot (s : State) (b : Bool) : (s.setBitv b).nslot = s.nslot := rfl
@[simp] theorem State.setBitv_hdr (s : State) (b : Bool) : (s.setBitv b).hdr = s.hdr := rfl
@[simp] theorem State.setBitv_sh (s : State) (b : Bool) : (s.setBitv b).sh = s.sh := rfl
@[simp] theorem State.setBitv_pt (s : State) (b : Bool) : (s.setBitv b).pt = s.pt := rfl
@[simp] theorem State.setBitv_ordsec (s : State) (b : Bool) : (s.setBitv b).ordsec = s.ordsec := rfl
@[simp] theorem State.setBitv_ordpos (s : State) (b : Bool) : (s.setBitv b).ordpos = s.ordpos := rfl
@[simp] theorem State.setBitv_tb (s : State) (b : Bool) : (s.setBitv b).tb = s.tb := rfl
@[simp] theorem State.setBitv_wb (s : State) (b : Bool) : (s.setBitv b).wb = s.wb := rfl
@[simp] theorem State.setBitv_ob (s : State) (b : Bool) : (s.setBitv b).ob = s.ob := rfl
@[simp] theorem State.setBitv_nb (s : State) (b : Bool) : (s.setBitv b).nb = s.nb := rfl
@[simp] theorem State.setBitv_diag (s : State) (b : Bool) : (s.setBitv b).diag = s.diag := rfl
@[simp] theorem State.setBitv_params (s : State) (b : Bool) : (s.setBitv b).params = s.params := rfl
@[simp] theorem State.setBitv_ramEpoch (s : State) (b : Bool) : (s.setBitv b).ramEpoch = s.ramEpoch := rfl
@[simp] theorem State.setBitv_pending (s : State) (b : Bool) : (s.setBitv b).pending = s.pending := rfl
@[simp] theorem State.setBitv_replies (s : State) (b : Bool) : (s.setBitv b).replies = s.replies := rfl

@[simp] theorem State.putWork_cmd (s : State) (bs : List Byte) : (s.putWork bs).cmd = s.cmd := rfl
@[simp] theorem State.putWork_status (s : State) (bs : List Byte) : (s.putWork bs).status = s.status := rfl
@[simp] theorem State.putWork_tblen (s : State) (bs : List Byte) : (s.putWork bs).tblen = s.tblen := rfl
@[simp] theorem State.putWork_cur (s : State) (bs : List Byte) : (s.putWork bs).cur = s.cur := rfl
@[simp] theorem State.putWork_trk (s : State) (bs : List Byte) : (s.putWork bs).trk = s.trk := rfl
@[simp] theorem State.putWork_sec (s : State) (bs : List Byte) : (s.putWork bs).sec = s.sec := rfl
@[simp] theorem State.putWork_cnt (s : State) (bs : List Byte) : (s.putWork bs).cnt = s.cnt := rfl
@[simp] theorem State.putWork_wlen (s : State) (bs : List Byte) : (s.putWork bs).wlen = BitVec.ofNat 11 bs.length := rfl
@[simp] theorem State.putWork_spanStart (s : State) (bs : List Byte) : (s.putWork bs).spanStart = s.spanStart := rfl
@[simp] theorem State.putWork_spanEnd (s : State) (bs : List Byte) : (s.putWork bs).spanEnd = s.spanEnd := rfl
@[simp] theorem State.putWork_pos (s : State) (bs : List Byte) : (s.putWork bs).pos = s.pos := rfl
@[simp] theorem State.putWork_olen (s : State) (bs : List Byte) : (s.putWork bs).olen = s.olen := rfl
@[simp] theorem State.putWork_rawlen (s : State) (bs : List Byte) : (s.putWork bs).rawlen = s.rawlen := rfl
@[simp] theorem State.putWork_nlen (s : State) (bs : List Byte) : (s.putWork bs).nlen = s.nlen := rfl
@[simp] theorem State.putWork_diagcnt (s : State) (bs : List Byte) : (s.putWork bs).diagcnt = s.diagcnt := rfl
@[simp] theorem State.putWork_bitv (s : State) (bs : List Byte) : (s.putWork bs).bitv = s.bitv := rfl
@[simp] theorem State.putWork_nfound (s : State) (bs : List Byte) : (s.putWork bs).nfound = s.nfound := rfl
@[simp] theorem State.putWork_nslot (s : State) (bs : List Byte) : (s.putWork bs).nslot = s.nslot := rfl
@[simp] theorem State.putWork_hdr (s : State) (bs : List Byte) : (s.putWork bs).hdr = s.hdr := rfl
@[simp] theorem State.putWork_sh (s : State) (bs : List Byte) : (s.putWork bs).sh = s.sh := rfl
@[simp] theorem State.putWork_pt (s : State) (bs : List Byte) : (s.putWork bs).pt = s.pt := rfl
@[simp] theorem State.putWork_ordsec (s : State) (bs : List Byte) : (s.putWork bs).ordsec = s.ordsec := rfl
@[simp] theorem State.putWork_ordpos (s : State) (bs : List Byte) : (s.putWork bs).ordpos = s.ordpos := rfl
@[simp] theorem State.putWork_tb (s : State) (bs : List Byte) : (s.putWork bs).tb = s.tb := rfl
@[simp] theorem State.putWork_wb (s : State) (bs : List Byte) : (s.putWork bs).wb = s.wb.writeRange 0 bs := rfl
@[simp] theorem State.putWork_ob (s : State) (bs : List Byte) : (s.putWork bs).ob = s.ob := rfl
@[simp] theorem State.putWork_nb (s : State) (bs : List Byte) : (s.putWork bs).nb = s.nb := rfl
@[simp] theorem State.putWork_diag (s : State) (bs : List Byte) : (s.putWork bs).diag = s.diag := rfl
@[simp] theorem State.putWork_params (s : State) (bs : List Byte) : (s.putWork bs).params = s.params := rfl
@[simp] theorem State.putWork_ramEpoch (s : State) (bs : List Byte) : (s.putWork bs).ramEpoch = s.ramEpoch := rfl
@[simp] theorem State.putWork_pending (s : State) (bs : List Byte) : (s.putWork bs).pending = s.pending := rfl
@[simp] theorem State.putWork_replies (s : State) (bs : List Byte) : (s.putWork bs).replies = s.replies := rfl

@[simp] theorem State.clearDecode_cmd (s : State) : s.clearDecode.cmd = s.cmd := rfl
@[simp] theorem State.clearDecode_status (s : State) : s.clearDecode.status = s.status := rfl
@[simp] theorem State.clearDecode_tblen (s : State) : s.clearDecode.tblen = s.tblen := rfl
@[simp] theorem State.clearDecode_cur (s : State) : s.clearDecode.cur = s.cur := rfl
@[simp] theorem State.clearDecode_trk (s : State) : s.clearDecode.trk = s.trk := rfl
@[simp] theorem State.clearDecode_sec (s : State) : s.clearDecode.sec = s.sec := rfl
@[simp] theorem State.clearDecode_cnt (s : State) : s.clearDecode.cnt = s.cnt := rfl
@[simp] theorem State.clearDecode_wlen (s : State) : s.clearDecode.wlen = s.wlen := rfl
@[simp] theorem State.clearDecode_spanStart (s : State) : s.clearDecode.spanStart = s.spanStart := rfl
@[simp] theorem State.clearDecode_spanEnd (s : State) : s.clearDecode.spanEnd = s.spanEnd := rfl
@[simp] theorem State.clearDecode_pos (s : State) : s.clearDecode.pos = s.pos := rfl
@[simp] theorem State.clearDecode_olen (s : State) : s.clearDecode.olen = 0#11 := rfl
@[simp] theorem State.clearDecode_rawlen (s : State) : s.clearDecode.rawlen = s.rawlen := rfl
@[simp] theorem State.clearDecode_nlen (s : State) : s.clearDecode.nlen = 0#12 := rfl
@[simp] theorem State.clearDecode_diagcnt (s : State) : s.clearDecode.diagcnt = 0#12 := rfl
@[simp] theorem State.clearDecode_bitv (s : State) : s.clearDecode.bitv = s.bitv := rfl
@[simp] theorem State.clearDecode_nfound (s : State) : s.clearDecode.nfound = s.nfound := rfl
@[simp] theorem State.clearDecode_nslot (s : State) : s.clearDecode.nslot = s.nslot := rfl
@[simp] theorem State.clearDecode_hdr (s : State) : s.clearDecode.hdr = s.hdr := rfl
@[simp] theorem State.clearDecode_sh (s : State) : s.clearDecode.sh = s.sh := rfl
@[simp] theorem State.clearDecode_pt (s : State) : s.clearDecode.pt = s.pt := rfl
@[simp] theorem State.clearDecode_ordsec (s : State) : s.clearDecode.ordsec = s.ordsec := rfl
@[simp] theorem State.clearDecode_ordpos (s : State) : s.clearDecode.ordpos = s.ordpos := rfl
@[simp] theorem State.clearDecode_tb (s : State) : s.clearDecode.tb = s.tb := rfl
@[simp] theorem State.clearDecode_wb (s : State) : s.clearDecode.wb = s.wb := rfl
@[simp] theorem State.clearDecode_ob (s : State) : s.clearDecode.ob = s.ob := rfl
@[simp] theorem State.clearDecode_nb (s : State) : s.clearDecode.nb = s.nb := rfl
@[simp] theorem State.clearDecode_diag (s : State) : s.clearDecode.diag = s.diag := rfl
@[simp] theorem State.clearDecode_params (s : State) : s.clearDecode.params = s.params := rfl
@[simp] theorem State.clearDecode_ramEpoch (s : State) : s.clearDecode.ramEpoch = s.ramEpoch := rfl
@[simp] theorem State.clearDecode_pending (s : State) : s.clearDecode.pending = s.pending := rfl
@[simp] theorem State.clearDecode_replies (s : State) : s.clearDecode.replies = s.replies := rfl

@[simp] theorem State.putOutput_cmd (s : State) (bs : List Byte) : (s.putOutput bs).cmd = s.cmd := rfl
@[simp] theorem State.putOutput_status (s : State) (bs : List Byte) : (s.putOutput bs).status = s.status := rfl
@[simp] theorem State.putOutput_tblen (s : State) (bs : List Byte) : (s.putOutput bs).tblen = s.tblen := rfl
@[simp] theorem State.putOutput_cur (s : State) (bs : List Byte) : (s.putOutput bs).cur = s.cur := rfl
@[simp] theorem State.putOutput_trk (s : State) (bs : List Byte) : (s.putOutput bs).trk = s.trk := rfl
@[simp] theorem State.putOutput_sec (s : State) (bs : List Byte) : (s.putOutput bs).sec = s.sec := rfl
@[simp] theorem State.putOutput_cnt (s : State) (bs : List Byte) : (s.putOutput bs).cnt = s.cnt := rfl
@[simp] theorem State.putOutput_wlen (s : State) (bs : List Byte) : (s.putOutput bs).wlen = s.wlen := rfl
@[simp] theorem State.putOutput_spanStart (s : State) (bs : List Byte) : (s.putOutput bs).spanStart = s.spanStart := rfl
@[simp] theorem State.putOutput_spanEnd (s : State) (bs : List Byte) : (s.putOutput bs).spanEnd = s.spanEnd := rfl
@[simp] theorem State.putOutput_pos (s : State) (bs : List Byte) : (s.putOutput bs).pos = s.pos := rfl
@[simp] theorem State.putOutput_olen (s : State) (bs : List Byte) : (s.putOutput bs).olen = BitVec.ofNat 11 bs.length := rfl
@[simp] theorem State.putOutput_rawlen (s : State) (bs : List Byte) : (s.putOutput bs).rawlen = s.rawlen := rfl
@[simp] theorem State.putOutput_nlen (s : State) (bs : List Byte) : (s.putOutput bs).nlen = s.nlen := rfl
@[simp] theorem State.putOutput_diagcnt (s : State) (bs : List Byte) : (s.putOutput bs).diagcnt = s.diagcnt := rfl
@[simp] theorem State.putOutput_bitv (s : State) (bs : List Byte) : (s.putOutput bs).bitv = s.bitv := rfl
@[simp] theorem State.putOutput_nfound (s : State) (bs : List Byte) : (s.putOutput bs).nfound = s.nfound := rfl
@[simp] theorem State.putOutput_nslot (s : State) (bs : List Byte) : (s.putOutput bs).nslot = s.nslot := rfl
@[simp] theorem State.putOutput_hdr (s : State) (bs : List Byte) : (s.putOutput bs).hdr = s.hdr := rfl
@[simp] theorem State.putOutput_sh (s : State) (bs : List Byte) : (s.putOutput bs).sh = s.sh := rfl
@[simp] theorem State.putOutput_pt (s : State) (bs : List Byte) : (s.putOutput bs).pt = s.pt := rfl
@[simp] theorem State.putOutput_ordsec (s : State) (bs : List Byte) : (s.putOutput bs).ordsec = s.ordsec := rfl
@[simp] theorem State.putOutput_ordpos (s : State) (bs : List Byte) : (s.putOutput bs).ordpos = s.ordpos := rfl
@[simp] theorem State.putOutput_tb (s : State) (bs : List Byte) : (s.putOutput bs).tb = s.tb := rfl
@[simp] theorem State.putOutput_wb (s : State) (bs : List Byte) : (s.putOutput bs).wb = s.wb := rfl
@[simp] theorem State.putOutput_ob (s : State) (bs : List Byte) : (s.putOutput bs).ob = s.ob.writeRange 0 bs := rfl
@[simp] theorem State.putOutput_nb (s : State) (bs : List Byte) : (s.putOutput bs).nb = s.nb := rfl
@[simp] theorem State.putOutput_diag (s : State) (bs : List Byte) : (s.putOutput bs).diag = s.diag := rfl
@[simp] theorem State.putOutput_params (s : State) (bs : List Byte) : (s.putOutput bs).params = s.params := rfl
@[simp] theorem State.putOutput_ramEpoch (s : State) (bs : List Byte) : (s.putOutput bs).ramEpoch = s.ramEpoch := rfl
@[simp] theorem State.putOutput_pending (s : State) (bs : List Byte) : (s.putOutput bs).pending = s.pending := rfl
@[simp] theorem State.putOutput_replies (s : State) (bs : List Byte) : (s.putOutput bs).replies = s.replies := rfl

@[simp] theorem State.putNibbles_cmd (s : State) (ns : List Byte) : (s.putNibbles ns).cmd = s.cmd := rfl
@[simp] theorem State.putNibbles_status (s : State) (ns : List Byte) : (s.putNibbles ns).status = s.status := rfl
@[simp] theorem State.putNibbles_tblen (s : State) (ns : List Byte) : (s.putNibbles ns).tblen = s.tblen := rfl
@[simp] theorem State.putNibbles_cur (s : State) (ns : List Byte) : (s.putNibbles ns).cur = s.cur := rfl
@[simp] theorem State.putNibbles_trk (s : State) (ns : List Byte) : (s.putNibbles ns).trk = s.trk := rfl
@[simp] theorem State.putNibbles_sec (s : State) (ns : List Byte) : (s.putNibbles ns).sec = s.sec := rfl
@[simp] theorem State.putNibbles_cnt (s : State) (ns : List Byte) : (s.putNibbles ns).cnt = s.cnt := rfl
@[simp] theorem State.putNibbles_wlen (s : State) (ns : List Byte) : (s.putNibbles ns).wlen = s.wlen := rfl
@[simp] theorem State.putNibbles_spanStart (s : State) (ns : List Byte) : (s.putNibbles ns).spanStart = s.spanStart := rfl
@[simp] theorem State.putNibbles_spanEnd (s : State) (ns : List Byte) : (s.putNibbles ns).spanEnd = s.spanEnd := rfl
@[simp] theorem State.putNibbles_pos (s : State) (ns : List Byte) : (s.putNibbles ns).pos = s.pos := rfl
@[simp] theorem State.putNibbles_olen (s : State) (ns : List Byte) : (s.putNibbles ns).olen = s.olen := rfl
@[simp] theorem State.putNibbles_rawlen (s : State) (ns : List Byte) : (s.putNibbles ns).rawlen = s.rawlen := rfl
@[simp] theorem State.putNibbles_nlen (s : State) (ns : List Byte) : (s.putNibbles ns).nlen = BitVec.ofNat 12 ns.length := rfl
@[simp] theorem State.putNibbles_diagcnt (s : State) (ns : List Byte) : (s.putNibbles ns).diagcnt = s.diagcnt := rfl
@[simp] theorem State.putNibbles_bitv (s : State) (ns : List Byte) : (s.putNibbles ns).bitv = s.bitv := rfl
@[simp] theorem State.putNibbles_nfound (s : State) (ns : List Byte) : (s.putNibbles ns).nfound = s.nfound := rfl
@[simp] theorem State.putNibbles_nslot (s : State) (ns : List Byte) : (s.putNibbles ns).nslot = s.nslot := rfl
@[simp] theorem State.putNibbles_hdr (s : State) (ns : List Byte) : (s.putNibbles ns).hdr = s.hdr := rfl
@[simp] theorem State.putNibbles_sh (s : State) (ns : List Byte) : (s.putNibbles ns).sh = s.sh := rfl
@[simp] theorem State.putNibbles_pt (s : State) (ns : List Byte) : (s.putNibbles ns).pt = s.pt := rfl
@[simp] theorem State.putNibbles_ordsec (s : State) (ns : List Byte) : (s.putNibbles ns).ordsec = s.ordsec := rfl
@[simp] theorem State.putNibbles_ordpos (s : State) (ns : List Byte) : (s.putNibbles ns).ordpos = s.ordpos := rfl
@[simp] theorem State.putNibbles_tb (s : State) (ns : List Byte) : (s.putNibbles ns).tb = s.tb := rfl
@[simp] theorem State.putNibbles_wb (s : State) (ns : List Byte) : (s.putNibbles ns).wb = s.wb := rfl
@[simp] theorem State.putNibbles_ob (s : State) (ns : List Byte) : (s.putNibbles ns).ob = s.ob := rfl
@[simp] theorem State.putNibbles_nb (s : State) (ns : List Byte) : (s.putNibbles ns).nb = s.nb.writeRange 0 ns := rfl
@[simp] theorem State.putNibbles_diag (s : State) (ns : List Byte) : (s.putNibbles ns).diag = s.diag := rfl
@[simp] theorem State.putNibbles_params (s : State) (ns : List Byte) : (s.putNibbles ns).params = s.params := rfl
@[simp] theorem State.putNibbles_ramEpoch (s : State) (ns : List Byte) : (s.putNibbles ns).ramEpoch = s.ramEpoch := rfl
@[simp] theorem State.putNibbles_pending (s : State) (ns : List Byte) : (s.putNibbles ns).pending = s.pending := rfl
@[simp] theorem State.putNibbles_replies (s : State) (ns : List Byte) : (s.putNibbles ns).replies = s.replies := rfl

@[simp] theorem State.putDiag_cmd (s : State) (d : Nat) (rs : List DiagWord) : (s.putDiag d rs).cmd = s.cmd := rfl
@[simp] theorem State.putDiag_status (s : State) (d : Nat) (rs : List DiagWord) : (s.putDiag d rs).status = s.status := rfl
@[simp] theorem State.putDiag_tblen (s : State) (d : Nat) (rs : List DiagWord) : (s.putDiag d rs).tblen = s.tblen := rfl
@[simp] theorem State.putDiag_cur (s : State) (d : Nat) (rs : List DiagWord) : (s.putDiag d rs).cur = s.cur := rfl
@[simp] theorem State.putDiag_trk (s : State) (d : Nat) (rs : List DiagWord) : (s.putDiag d rs).trk = s.trk := rfl
@[simp] theorem State.putDiag_sec (s : State) (d : Nat) (rs : List DiagWord) : (s.putDiag d rs).sec = s.sec := rfl
@[simp] theorem State.putDiag_cnt (s : State) (d : Nat) (rs : List DiagWord) : (s.putDiag d rs).cnt = s.cnt := rfl
@[simp] theorem State.putDiag_wlen (s : State) (d : Nat) (rs : List DiagWord) : (s.putDiag d rs).wlen = s.wlen := rfl
@[simp] theorem State.putDiag_spanStart (s : State) (d : Nat) (rs : List DiagWord) : (s.putDiag d rs).spanStart = s.spanStart := rfl
@[simp] theorem State.putDiag_spanEnd (s : State) (d : Nat) (rs : List DiagWord) : (s.putDiag d rs).spanEnd = s.spanEnd := rfl
@[simp] theorem State.putDiag_pos (s : State) (d : Nat) (rs : List DiagWord) : (s.putDiag d rs).pos = s.pos := rfl
@[simp] theorem State.putDiag_olen (s : State) (d : Nat) (rs : List DiagWord) : (s.putDiag d rs).olen = s.olen := rfl
@[simp] theorem State.putDiag_rawlen (s : State) (d : Nat) (rs : List DiagWord) : (s.putDiag d rs).rawlen = s.rawlen := rfl
@[simp] theorem State.putDiag_nlen (s : State) (d : Nat) (rs : List DiagWord) : (s.putDiag d rs).nlen = s.nlen := rfl
@[simp] theorem State.putDiag_diagcnt (s : State) (d : Nat) (rs : List DiagWord) : (s.putDiag d rs).diagcnt = BitVec.ofNat 12 (d + rs.length) := rfl
@[simp] theorem State.putDiag_bitv (s : State) (d : Nat) (rs : List DiagWord) : (s.putDiag d rs).bitv = s.bitv := rfl
@[simp] theorem State.putDiag_nfound (s : State) (d : Nat) (rs : List DiagWord) : (s.putDiag d rs).nfound = s.nfound := rfl
@[simp] theorem State.putDiag_nslot (s : State) (d : Nat) (rs : List DiagWord) : (s.putDiag d rs).nslot = s.nslot := rfl
@[simp] theorem State.putDiag_hdr (s : State) (d : Nat) (rs : List DiagWord) : (s.putDiag d rs).hdr = s.hdr := rfl
@[simp] theorem State.putDiag_sh (s : State) (d : Nat) (rs : List DiagWord) : (s.putDiag d rs).sh = s.sh := rfl
@[simp] theorem State.putDiag_pt (s : State) (d : Nat) (rs : List DiagWord) : (s.putDiag d rs).pt = s.pt := rfl
@[simp] theorem State.putDiag_ordsec (s : State) (d : Nat) (rs : List DiagWord) : (s.putDiag d rs).ordsec = s.ordsec := rfl
@[simp] theorem State.putDiag_ordpos (s : State) (d : Nat) (rs : List DiagWord) : (s.putDiag d rs).ordpos = s.ordpos := rfl
@[simp] theorem State.putDiag_tb (s : State) (d : Nat) (rs : List DiagWord) : (s.putDiag d rs).tb = s.tb := rfl
@[simp] theorem State.putDiag_wb (s : State) (d : Nat) (rs : List DiagWord) : (s.putDiag d rs).wb = s.wb := rfl
@[simp] theorem State.putDiag_ob (s : State) (d : Nat) (rs : List DiagWord) : (s.putDiag d rs).ob = s.ob := rfl
@[simp] theorem State.putDiag_nb (s : State) (d : Nat) (rs : List DiagWord) : (s.putDiag d rs).nb = s.nb := rfl
@[simp] theorem State.putDiag_diag (s : State) (d : Nat) (rs : List DiagWord) : (s.putDiag d rs).diag = s.diag.writeRange d rs := rfl
@[simp] theorem State.putDiag_params (s : State) (d : Nat) (rs : List DiagWord) : (s.putDiag d rs).params = s.params := rfl
@[simp] theorem State.putDiag_ramEpoch (s : State) (d : Nat) (rs : List DiagWord) : (s.putDiag d rs).ramEpoch = s.ramEpoch := rfl
@[simp] theorem State.putDiag_pending (s : State) (d : Nat) (rs : List DiagWord) : (s.putDiag d rs).pending = s.pending := rfl
@[simp] theorem State.putDiag_replies (s : State) (d : Nat) (rs : List DiagWord) : (s.putDiag d rs).replies = s.replies := rfl

@[simp] theorem State.putSh_cmd (s : State) (h : Vector Byte 8) : (s.putSh h).cmd = s.cmd := rfl
@[simp] theorem State.putSh_status (s : State) (h : Vector Byte 8) : (s.putSh h).status = s.status := rfl
@[simp] theorem State.putSh_tblen (s : State) (h : Vector Byte 8) : (s.putSh h).tblen = s.tblen := rfl
@[simp] theorem State.putSh_cur (s : State) (h : Vector Byte 8) : (s.putSh h).cur = s.cur := rfl
@[simp] theorem State.putSh_trk (s : State) (h : Vector Byte 8) : (s.putSh h).trk = s.trk := rfl
@[simp] theorem State.putSh_sec (s : State) (h : Vector Byte 8) : (s.putSh h).sec = s.sec := rfl
@[simp] theorem State.putSh_cnt (s : State) (h : Vector Byte 8) : (s.putSh h).cnt = s.cnt := rfl
@[simp] theorem State.putSh_wlen (s : State) (h : Vector Byte 8) : (s.putSh h).wlen = s.wlen := rfl
@[simp] theorem State.putSh_spanStart (s : State) (h : Vector Byte 8) : (s.putSh h).spanStart = s.spanStart := rfl
@[simp] theorem State.putSh_spanEnd (s : State) (h : Vector Byte 8) : (s.putSh h).spanEnd = s.spanEnd := rfl
@[simp] theorem State.putSh_pos (s : State) (h : Vector Byte 8) : (s.putSh h).pos = s.pos := rfl
@[simp] theorem State.putSh_olen (s : State) (h : Vector Byte 8) : (s.putSh h).olen = s.olen := rfl
@[simp] theorem State.putSh_rawlen (s : State) (h : Vector Byte 8) : (s.putSh h).rawlen = s.rawlen := rfl
@[simp] theorem State.putSh_nlen (s : State) (h : Vector Byte 8) : (s.putSh h).nlen = s.nlen := rfl
@[simp] theorem State.putSh_diagcnt (s : State) (h : Vector Byte 8) : (s.putSh h).diagcnt = s.diagcnt := rfl
@[simp] theorem State.putSh_bitv (s : State) (h : Vector Byte 8) : (s.putSh h).bitv = s.bitv := rfl
@[simp] theorem State.putSh_nfound (s : State) (h : Vector Byte 8) : (s.putSh h).nfound = s.nfound := rfl
@[simp] theorem State.putSh_nslot (s : State) (h : Vector Byte 8) : (s.putSh h).nslot = s.nslot := rfl
@[simp] theorem State.putSh_hdr (s : State) (h : Vector Byte 8) : (s.putSh h).hdr = s.hdr := rfl
@[simp] theorem State.putSh_sh (s : State) (h : Vector Byte 8) : (s.putSh h).sh = h := rfl
@[simp] theorem State.putSh_pt (s : State) (h : Vector Byte 8) : (s.putSh h).pt = s.pt := rfl
@[simp] theorem State.putSh_ordsec (s : State) (h : Vector Byte 8) : (s.putSh h).ordsec = s.ordsec := rfl
@[simp] theorem State.putSh_ordpos (s : State) (h : Vector Byte 8) : (s.putSh h).ordpos = s.ordpos := rfl
@[simp] theorem State.putSh_tb (s : State) (h : Vector Byte 8) : (s.putSh h).tb = s.tb := rfl
@[simp] theorem State.putSh_wb (s : State) (h : Vector Byte 8) : (s.putSh h).wb = s.wb := rfl
@[simp] theorem State.putSh_ob (s : State) (h : Vector Byte 8) : (s.putSh h).ob = s.ob := rfl
@[simp] theorem State.putSh_nb (s : State) (h : Vector Byte 8) : (s.putSh h).nb = s.nb := rfl
@[simp] theorem State.putSh_diag (s : State) (h : Vector Byte 8) : (s.putSh h).diag = s.diag := rfl
@[simp] theorem State.putSh_params (s : State) (h : Vector Byte 8) : (s.putSh h).params = s.params := rfl
@[simp] theorem State.putSh_ramEpoch (s : State) (h : Vector Byte 8) : (s.putSh h).ramEpoch = s.ramEpoch := rfl
@[simp] theorem State.putSh_pending (s : State) (h : Vector Byte 8) : (s.putSh h).pending = s.pending := rfl
@[simp] theorem State.putSh_replies (s : State) (h : Vector Byte 8) : (s.putSh h).replies = s.replies := rfl

@[simp] theorem State.putHdr_cmd (s : State) (h : Vector Byte 7) : (s.putHdr h).cmd = s.cmd := rfl
@[simp] theorem State.putHdr_status (s : State) (h : Vector Byte 7) : (s.putHdr h).status = s.status := rfl
@[simp] theorem State.putHdr_tblen (s : State) (h : Vector Byte 7) : (s.putHdr h).tblen = s.tblen := rfl
@[simp] theorem State.putHdr_cur (s : State) (h : Vector Byte 7) : (s.putHdr h).cur = s.cur := rfl
@[simp] theorem State.putHdr_trk (s : State) (h : Vector Byte 7) : (s.putHdr h).trk = s.trk := rfl
@[simp] theorem State.putHdr_sec (s : State) (h : Vector Byte 7) : (s.putHdr h).sec = s.sec := rfl
@[simp] theorem State.putHdr_cnt (s : State) (h : Vector Byte 7) : (s.putHdr h).cnt = s.cnt := rfl
@[simp] theorem State.putHdr_wlen (s : State) (h : Vector Byte 7) : (s.putHdr h).wlen = s.wlen := rfl
@[simp] theorem State.putHdr_spanStart (s : State) (h : Vector Byte 7) : (s.putHdr h).spanStart = s.spanStart := rfl
@[simp] theorem State.putHdr_spanEnd (s : State) (h : Vector Byte 7) : (s.putHdr h).spanEnd = s.spanEnd := rfl
@[simp] theorem State.putHdr_pos (s : State) (h : Vector Byte 7) : (s.putHdr h).pos = s.pos := rfl
@[simp] theorem State.putHdr_olen (s : State) (h : Vector Byte 7) : (s.putHdr h).olen = s.olen := rfl
@[simp] theorem State.putHdr_rawlen (s : State) (h : Vector Byte 7) : (s.putHdr h).rawlen = s.rawlen := rfl
@[simp] theorem State.putHdr_nlen (s : State) (h : Vector Byte 7) : (s.putHdr h).nlen = s.nlen := rfl
@[simp] theorem State.putHdr_diagcnt (s : State) (h : Vector Byte 7) : (s.putHdr h).diagcnt = s.diagcnt := rfl
@[simp] theorem State.putHdr_bitv (s : State) (h : Vector Byte 7) : (s.putHdr h).bitv = s.bitv := rfl
@[simp] theorem State.putHdr_nfound (s : State) (h : Vector Byte 7) : (s.putHdr h).nfound = s.nfound := rfl
@[simp] theorem State.putHdr_nslot (s : State) (h : Vector Byte 7) : (s.putHdr h).nslot = s.nslot := rfl
@[simp] theorem State.putHdr_hdr (s : State) (h : Vector Byte 7) : (s.putHdr h).hdr = h := rfl
@[simp] theorem State.putHdr_sh (s : State) (h : Vector Byte 7) : (s.putHdr h).sh = s.sh := rfl
@[simp] theorem State.putHdr_pt (s : State) (h : Vector Byte 7) : (s.putHdr h).pt = s.pt := rfl
@[simp] theorem State.putHdr_ordsec (s : State) (h : Vector Byte 7) : (s.putHdr h).ordsec = s.ordsec := rfl
@[simp] theorem State.putHdr_ordpos (s : State) (h : Vector Byte 7) : (s.putHdr h).ordpos = s.ordpos := rfl
@[simp] theorem State.putHdr_tb (s : State) (h : Vector Byte 7) : (s.putHdr h).tb = s.tb := rfl
@[simp] theorem State.putHdr_wb (s : State) (h : Vector Byte 7) : (s.putHdr h).wb = s.wb := rfl
@[simp] theorem State.putHdr_ob (s : State) (h : Vector Byte 7) : (s.putHdr h).ob = s.ob := rfl
@[simp] theorem State.putHdr_nb (s : State) (h : Vector Byte 7) : (s.putHdr h).nb = s.nb := rfl
@[simp] theorem State.putHdr_diag (s : State) (h : Vector Byte 7) : (s.putHdr h).diag = s.diag := rfl
@[simp] theorem State.putHdr_params (s : State) (h : Vector Byte 7) : (s.putHdr h).params = s.params := rfl
@[simp] theorem State.putHdr_ramEpoch (s : State) (h : Vector Byte 7) : (s.putHdr h).ramEpoch = s.ramEpoch := rfl
@[simp] theorem State.putHdr_pending (s : State) (h : Vector Byte 7) : (s.putHdr h).pending = s.pending := rfl
@[simp] theorem State.putHdr_replies (s : State) (h : Vector Byte 7) : (s.putHdr h).replies = s.replies := rfl

@[simp] theorem State.setPos_cmd (s : State) (p : Word) : (s.setPos p).cmd = s.cmd := rfl
@[simp] theorem State.setPos_status (s : State) (p : Word) : (s.setPos p).status = s.status := rfl
@[simp] theorem State.setPos_tblen (s : State) (p : Word) : (s.setPos p).tblen = s.tblen := rfl
@[simp] theorem State.setPos_cur (s : State) (p : Word) : (s.setPos p).cur = s.cur := rfl
@[simp] theorem State.setPos_trk (s : State) (p : Word) : (s.setPos p).trk = s.trk := rfl
@[simp] theorem State.setPos_sec (s : State) (p : Word) : (s.setPos p).sec = s.sec := rfl
@[simp] theorem State.setPos_cnt (s : State) (p : Word) : (s.setPos p).cnt = s.cnt := rfl
@[simp] theorem State.setPos_wlen (s : State) (p : Word) : (s.setPos p).wlen = s.wlen := rfl
@[simp] theorem State.setPos_spanStart (s : State) (p : Word) : (s.setPos p).spanStart = s.spanStart := rfl
@[simp] theorem State.setPos_spanEnd (s : State) (p : Word) : (s.setPos p).spanEnd = s.spanEnd := rfl
@[simp] theorem State.setPos_pos (s : State) (p : Word) : (s.setPos p).pos = p := rfl
@[simp] theorem State.setPos_olen (s : State) (p : Word) : (s.setPos p).olen = s.olen := rfl
@[simp] theorem State.setPos_rawlen (s : State) (p : Word) : (s.setPos p).rawlen = s.rawlen := rfl
@[simp] theorem State.setPos_nlen (s : State) (p : Word) : (s.setPos p).nlen = s.nlen := rfl
@[simp] theorem State.setPos_diagcnt (s : State) (p : Word) : (s.setPos p).diagcnt = s.diagcnt := rfl
@[simp] theorem State.setPos_bitv (s : State) (p : Word) : (s.setPos p).bitv = s.bitv := rfl
@[simp] theorem State.setPos_nfound (s : State) (p : Word) : (s.setPos p).nfound = s.nfound := rfl
@[simp] theorem State.setPos_nslot (s : State) (p : Word) : (s.setPos p).nslot = s.nslot := rfl
@[simp] theorem State.setPos_hdr (s : State) (p : Word) : (s.setPos p).hdr = s.hdr := rfl
@[simp] theorem State.setPos_sh (s : State) (p : Word) : (s.setPos p).sh = s.sh := rfl
@[simp] theorem State.setPos_pt (s : State) (p : Word) : (s.setPos p).pt = s.pt := rfl
@[simp] theorem State.setPos_ordsec (s : State) (p : Word) : (s.setPos p).ordsec = s.ordsec := rfl
@[simp] theorem State.setPos_ordpos (s : State) (p : Word) : (s.setPos p).ordpos = s.ordpos := rfl
@[simp] theorem State.setPos_tb (s : State) (p : Word) : (s.setPos p).tb = s.tb := rfl
@[simp] theorem State.setPos_wb (s : State) (p : Word) : (s.setPos p).wb = s.wb := rfl
@[simp] theorem State.setPos_ob (s : State) (p : Word) : (s.setPos p).ob = s.ob := rfl
@[simp] theorem State.setPos_nb (s : State) (p : Word) : (s.setPos p).nb = s.nb := rfl
@[simp] theorem State.setPos_diag (s : State) (p : Word) : (s.setPos p).diag = s.diag := rfl
@[simp] theorem State.setPos_params (s : State) (p : Word) : (s.setPos p).params = s.params := rfl
@[simp] theorem State.setPos_ramEpoch (s : State) (p : Word) : (s.setPos p).ramEpoch = s.ramEpoch := rfl
@[simp] theorem State.setPos_pending (s : State) (p : Word) : (s.setPos p).pending = s.pending := rfl
@[simp] theorem State.setPos_replies (s : State) (p : Word) : (s.setPos p).replies = s.replies := rfl

@[simp] theorem State.putSweep_cmd (s : State) (n f : Nat) (pt : Vector Word 21) (os : Vector Byte 21) (op : Vector Word 21) : (s.putSweep n f pt os op).cmd = s.cmd := rfl
@[simp] theorem State.putSweep_status (s : State) (n f : Nat) (pt : Vector Word 21) (os : Vector Byte 21) (op : Vector Word 21) : (s.putSweep n f pt os op).status = s.status := rfl
@[simp] theorem State.putSweep_tblen (s : State) (n f : Nat) (pt : Vector Word 21) (os : Vector Byte 21) (op : Vector Word 21) : (s.putSweep n f pt os op).tblen = s.tblen := rfl
@[simp] theorem State.putSweep_cur (s : State) (n f : Nat) (pt : Vector Word 21) (os : Vector Byte 21) (op : Vector Word 21) : (s.putSweep n f pt os op).cur = s.cur := rfl
@[simp] theorem State.putSweep_trk (s : State) (n f : Nat) (pt : Vector Word 21) (os : Vector Byte 21) (op : Vector Word 21) : (s.putSweep n f pt os op).trk = s.trk := rfl
@[simp] theorem State.putSweep_sec (s : State) (n f : Nat) (pt : Vector Word 21) (os : Vector Byte 21) (op : Vector Word 21) : (s.putSweep n f pt os op).sec = s.sec := rfl
@[simp] theorem State.putSweep_cnt (s : State) (n f : Nat) (pt : Vector Word 21) (os : Vector Byte 21) (op : Vector Word 21) : (s.putSweep n f pt os op).cnt = s.cnt := rfl
@[simp] theorem State.putSweep_wlen (s : State) (n f : Nat) (pt : Vector Word 21) (os : Vector Byte 21) (op : Vector Word 21) : (s.putSweep n f pt os op).wlen = s.wlen := rfl
@[simp] theorem State.putSweep_spanStart (s : State) (n f : Nat) (pt : Vector Word 21) (os : Vector Byte 21) (op : Vector Word 21) : (s.putSweep n f pt os op).spanStart = s.spanStart := rfl
@[simp] theorem State.putSweep_spanEnd (s : State) (n f : Nat) (pt : Vector Word 21) (os : Vector Byte 21) (op : Vector Word 21) : (s.putSweep n f pt os op).spanEnd = s.spanEnd := rfl
@[simp] theorem State.putSweep_pos (s : State) (n f : Nat) (pt : Vector Word 21) (os : Vector Byte 21) (op : Vector Word 21) : (s.putSweep n f pt os op).pos = s.pos := rfl
@[simp] theorem State.putSweep_olen (s : State) (n f : Nat) (pt : Vector Word 21) (os : Vector Byte 21) (op : Vector Word 21) : (s.putSweep n f pt os op).olen = s.olen := rfl
@[simp] theorem State.putSweep_rawlen (s : State) (n f : Nat) (pt : Vector Word 21) (os : Vector Byte 21) (op : Vector Word 21) : (s.putSweep n f pt os op).rawlen = s.rawlen := rfl
@[simp] theorem State.putSweep_nlen (s : State) (n f : Nat) (pt : Vector Word 21) (os : Vector Byte 21) (op : Vector Word 21) : (s.putSweep n f pt os op).nlen = s.nlen := rfl
@[simp] theorem State.putSweep_diagcnt (s : State) (n f : Nat) (pt : Vector Word 21) (os : Vector Byte 21) (op : Vector Word 21) : (s.putSweep n f pt os op).diagcnt = s.diagcnt := rfl
@[simp] theorem State.putSweep_bitv (s : State) (n f : Nat) (pt : Vector Word 21) (os : Vector Byte 21) (op : Vector Word 21) : (s.putSweep n f pt os op).bitv = s.bitv := rfl
@[simp] theorem State.putSweep_nfound (s : State) (n f : Nat) (pt : Vector Word 21) (os : Vector Byte 21) (op : Vector Word 21) : (s.putSweep n f pt os op).nfound = BitVec.ofNat 5 f := rfl
@[simp] theorem State.putSweep_nslot (s : State) (n f : Nat) (pt : Vector Word 21) (os : Vector Byte 21) (op : Vector Word 21) : (s.putSweep n f pt os op).nslot = BitVec.ofNat 5 n := rfl
@[simp] theorem State.putSweep_hdr (s : State) (n f : Nat) (pt : Vector Word 21) (os : Vector Byte 21) (op : Vector Word 21) : (s.putSweep n f pt os op).hdr = s.hdr := rfl
@[simp] theorem State.putSweep_sh (s : State) (n f : Nat) (pt : Vector Word 21) (os : Vector Byte 21) (op : Vector Word 21) : (s.putSweep n f pt os op).sh = s.sh := rfl
@[simp] theorem State.putSweep_pt (s : State) (n f : Nat) (pt : Vector Word 21) (os : Vector Byte 21) (op : Vector Word 21) : (s.putSweep n f pt os op).pt = pt := rfl
@[simp] theorem State.putSweep_ordsec (s : State) (n f : Nat) (pt : Vector Word 21) (os : Vector Byte 21) (op : Vector Word 21) : (s.putSweep n f pt os op).ordsec = os := rfl
@[simp] theorem State.putSweep_ordpos (s : State) (n f : Nat) (pt : Vector Word 21) (os : Vector Byte 21) (op : Vector Word 21) : (s.putSweep n f pt os op).ordpos = op := rfl
@[simp] theorem State.putSweep_tb (s : State) (n f : Nat) (pt : Vector Word 21) (os : Vector Byte 21) (op : Vector Word 21) : (s.putSweep n f pt os op).tb = s.tb := rfl
@[simp] theorem State.putSweep_wb (s : State) (n f : Nat) (pt : Vector Word 21) (os : Vector Byte 21) (op : Vector Word 21) : (s.putSweep n f pt os op).wb = s.wb := rfl
@[simp] theorem State.putSweep_ob (s : State) (n f : Nat) (pt : Vector Word 21) (os : Vector Byte 21) (op : Vector Word 21) : (s.putSweep n f pt os op).ob = s.ob := rfl
@[simp] theorem State.putSweep_nb (s : State) (n f : Nat) (pt : Vector Word 21) (os : Vector Byte 21) (op : Vector Word 21) : (s.putSweep n f pt os op).nb = s.nb := rfl
@[simp] theorem State.putSweep_diag (s : State) (n f : Nat) (pt : Vector Word 21) (os : Vector Byte 21) (op : Vector Word 21) : (s.putSweep n f pt os op).diag = s.diag := rfl
@[simp] theorem State.putSweep_params (s : State) (n f : Nat) (pt : Vector Word 21) (os : Vector Byte 21) (op : Vector Word 21) : (s.putSweep n f pt os op).params = s.params := rfl
@[simp] theorem State.putSweep_ramEpoch (s : State) (n f : Nat) (pt : Vector Word 21) (os : Vector Byte 21) (op : Vector Word 21) : (s.putSweep n f pt os op).ramEpoch = s.ramEpoch := rfl
@[simp] theorem State.putSweep_pending (s : State) (n f : Nat) (pt : Vector Word 21) (os : Vector Byte 21) (op : Vector Word 21) : (s.putSweep n f pt os op).pending = s.pending := rfl
@[simp] theorem State.putSweep_replies (s : State) (n f : Nat) (pt : Vector Word 21) (os : Vector Byte 21) (op : Vector Word 21) : (s.putSweep n f pt os op).replies = s.replies := rfl

@[simp] theorem State.clearPayload_cmd (s : State) : s.clearPayload.cmd = s.cmd := rfl
@[simp] theorem State.clearPayload_status (s : State) : s.clearPayload.status = s.status := rfl
@[simp] theorem State.clearPayload_tblen (s : State) : s.clearPayload.tblen = s.tblen := rfl
@[simp] theorem State.clearPayload_cur (s : State) : s.clearPayload.cur = s.cur := rfl
@[simp] theorem State.clearPayload_trk (s : State) : s.clearPayload.trk = s.trk := rfl
@[simp] theorem State.clearPayload_sec (s : State) : s.clearPayload.sec = s.sec := rfl
@[simp] theorem State.clearPayload_cnt (s : State) : s.clearPayload.cnt = s.cnt := rfl
@[simp] theorem State.clearPayload_wlen (s : State) : s.clearPayload.wlen = s.wlen := rfl
@[simp] theorem State.clearPayload_spanStart (s : State) : s.clearPayload.spanStart = s.spanStart := rfl
@[simp] theorem State.clearPayload_spanEnd (s : State) : s.clearPayload.spanEnd = s.spanEnd := rfl
@[simp] theorem State.clearPayload_pos (s : State) : s.clearPayload.pos = s.pos := rfl
@[simp] theorem State.clearPayload_olen (s : State) : s.clearPayload.olen = 0#11 := rfl
@[simp] theorem State.clearPayload_rawlen (s : State) : s.clearPayload.rawlen = 0#11 := rfl
@[simp] theorem State.clearPayload_nlen (s : State) : s.clearPayload.nlen = s.nlen := rfl
@[simp] theorem State.clearPayload_diagcnt (s : State) : s.clearPayload.diagcnt = s.diagcnt := rfl
@[simp] theorem State.clearPayload_bitv (s : State) : s.clearPayload.bitv = s.bitv := rfl
@[simp] theorem State.clearPayload_nfound (s : State) : s.clearPayload.nfound = s.nfound := rfl
@[simp] theorem State.clearPayload_nslot (s : State) : s.clearPayload.nslot = s.nslot := rfl
@[simp] theorem State.clearPayload_hdr (s : State) : s.clearPayload.hdr = s.hdr := rfl
@[simp] theorem State.clearPayload_sh (s : State) : s.clearPayload.sh = s.sh := rfl
@[simp] theorem State.clearPayload_pt (s : State) : s.clearPayload.pt = s.pt := rfl
@[simp] theorem State.clearPayload_ordsec (s : State) : s.clearPayload.ordsec = s.ordsec := rfl
@[simp] theorem State.clearPayload_ordpos (s : State) : s.clearPayload.ordpos = s.ordpos := rfl
@[simp] theorem State.clearPayload_tb (s : State) : s.clearPayload.tb = s.tb := rfl
@[simp] theorem State.clearPayload_wb (s : State) : s.clearPayload.wb = s.wb := rfl
@[simp] theorem State.clearPayload_ob (s : State) : s.clearPayload.ob = s.ob := rfl
@[simp] theorem State.clearPayload_nb (s : State) : s.clearPayload.nb = s.nb := rfl
@[simp] theorem State.clearPayload_diag (s : State) : s.clearPayload.diag = s.diag := rfl
@[simp] theorem State.clearPayload_params (s : State) : s.clearPayload.params = s.params := rfl
@[simp] theorem State.clearPayload_ramEpoch (s : State) : s.clearPayload.ramEpoch = s.ramEpoch := rfl
@[simp] theorem State.clearPayload_pending (s : State) : s.clearPayload.pending = s.pending := rfl
@[simp] theorem State.clearPayload_replies (s : State) : s.clearPayload.replies = s.replies := rfl

@[simp] theorem State.putPayload_cmd (s : State) (r : List Byte) : (s.putPayload r).cmd = s.cmd := rfl
@[simp] theorem State.putPayload_status (s : State) (r : List Byte) : (s.putPayload r).status = s.status := rfl
@[simp] theorem State.putPayload_tblen (s : State) (r : List Byte) : (s.putPayload r).tblen = s.tblen := rfl
@[simp] theorem State.putPayload_cur (s : State) (r : List Byte) : (s.putPayload r).cur = s.cur := rfl
@[simp] theorem State.putPayload_trk (s : State) (r : List Byte) : (s.putPayload r).trk = s.trk := rfl
@[simp] theorem State.putPayload_sec (s : State) (r : List Byte) : (s.putPayload r).sec = s.sec := rfl
@[simp] theorem State.putPayload_cnt (s : State) (r : List Byte) : (s.putPayload r).cnt = s.cnt := rfl
@[simp] theorem State.putPayload_wlen (s : State) (r : List Byte) : (s.putPayload r).wlen = s.wlen := rfl
@[simp] theorem State.putPayload_spanStart (s : State) (r : List Byte) : (s.putPayload r).spanStart = s.spanStart := rfl
@[simp] theorem State.putPayload_spanEnd (s : State) (r : List Byte) : (s.putPayload r).spanEnd = s.spanEnd := rfl
@[simp] theorem State.putPayload_pos (s : State) (r : List Byte) : (s.putPayload r).pos = s.pos := rfl
@[simp] theorem State.putPayload_olen (s : State) (r : List Byte) : (s.putPayload r).olen = BitVec.ofNat 11 (r.length - rlTrailer) := rfl
@[simp] theorem State.putPayload_rawlen (s : State) (r : List Byte) : (s.putPayload r).rawlen = BitVec.ofNat 11 r.length := rfl
@[simp] theorem State.putPayload_nlen (s : State) (r : List Byte) : (s.putPayload r).nlen = s.nlen := rfl
@[simp] theorem State.putPayload_diagcnt (s : State) (r : List Byte) : (s.putPayload r).diagcnt = s.diagcnt := rfl
@[simp] theorem State.putPayload_bitv (s : State) (r : List Byte) : (s.putPayload r).bitv = s.bitv := rfl
@[simp] theorem State.putPayload_nfound (s : State) (r : List Byte) : (s.putPayload r).nfound = s.nfound := rfl
@[simp] theorem State.putPayload_nslot (s : State) (r : List Byte) : (s.putPayload r).nslot = s.nslot := rfl
@[simp] theorem State.putPayload_hdr (s : State) (r : List Byte) : (s.putPayload r).hdr = s.hdr := rfl
@[simp] theorem State.putPayload_sh (s : State) (r : List Byte) : (s.putPayload r).sh = s.sh := rfl
@[simp] theorem State.putPayload_pt (s : State) (r : List Byte) : (s.putPayload r).pt = s.pt := rfl
@[simp] theorem State.putPayload_ordsec (s : State) (r : List Byte) : (s.putPayload r).ordsec = s.ordsec := rfl
@[simp] theorem State.putPayload_ordpos (s : State) (r : List Byte) : (s.putPayload r).ordpos = s.ordpos := rfl
@[simp] theorem State.putPayload_tb (s : State) (r : List Byte) : (s.putPayload r).tb = s.tb := rfl
@[simp] theorem State.putPayload_wb (s : State) (r : List Byte) : (s.putPayload r).wb = s.wb := rfl
@[simp] theorem State.putPayload_ob (s : State) (r : List Byte) : (s.putPayload r).ob = s.ob.writeRange 0 r := rfl
@[simp] theorem State.putPayload_nb (s : State) (r : List Byte) : (s.putPayload r).nb = s.nb := rfl
@[simp] theorem State.putPayload_diag (s : State) (r : List Byte) : (s.putPayload r).diag = s.diag := rfl
@[simp] theorem State.putPayload_params (s : State) (r : List Byte) : (s.putPayload r).params = s.params := rfl
@[simp] theorem State.putPayload_ramEpoch (s : State) (r : List Byte) : (s.putPayload r).ramEpoch = s.ramEpoch := rfl
@[simp] theorem State.putPayload_pending (s : State) (r : List Byte) : (s.putPayload r).pending = s.pending := rfl
@[simp] theorem State.putPayload_replies (s : State) (r : List Byte) : (s.putPayload r).replies = s.replies := rfl

@[simp] theorem State.endCommand_cmd (s : State) (c : ResultCode) (df : Bool) : (s.endCommand c df).cmd = s.cmd := rfl
@[simp] theorem State.endCommand_status (s : State) (c : ResultCode) (df : Bool) : (s.endCommand c df).status = statusBits c df := rfl
@[simp] theorem State.endCommand_tblen (s : State) (c : ResultCode) (df : Bool) : (s.endCommand c df).tblen = s.tblen := rfl
@[simp] theorem State.endCommand_cur (s : State) (c : ResultCode) (df : Bool) : (s.endCommand c df).cur = s.cur := rfl
@[simp] theorem State.endCommand_trk (s : State) (c : ResultCode) (df : Bool) : (s.endCommand c df).trk = s.trk := rfl
@[simp] theorem State.endCommand_sec (s : State) (c : ResultCode) (df : Bool) : (s.endCommand c df).sec = s.sec := rfl
@[simp] theorem State.endCommand_cnt (s : State) (c : ResultCode) (df : Bool) : (s.endCommand c df).cnt = s.cnt := rfl
@[simp] theorem State.endCommand_wlen (s : State) (c : ResultCode) (df : Bool) : (s.endCommand c df).wlen = s.wlen := rfl
@[simp] theorem State.endCommand_spanStart (s : State) (c : ResultCode) (df : Bool) : (s.endCommand c df).spanStart = s.spanStart := rfl
@[simp] theorem State.endCommand_spanEnd (s : State) (c : ResultCode) (df : Bool) : (s.endCommand c df).spanEnd = s.spanEnd := rfl
@[simp] theorem State.endCommand_pos (s : State) (c : ResultCode) (df : Bool) : (s.endCommand c df).pos = s.pos := rfl
@[simp] theorem State.endCommand_olen (s : State) (c : ResultCode) (df : Bool) : (s.endCommand c df).olen = s.olen := rfl
@[simp] theorem State.endCommand_rawlen (s : State) (c : ResultCode) (df : Bool) : (s.endCommand c df).rawlen = s.rawlen := rfl
@[simp] theorem State.endCommand_nlen (s : State) (c : ResultCode) (df : Bool) : (s.endCommand c df).nlen = s.nlen := rfl
@[simp] theorem State.endCommand_diagcnt (s : State) (c : ResultCode) (df : Bool) : (s.endCommand c df).diagcnt = s.diagcnt := rfl
@[simp] theorem State.endCommand_bitv (s : State) (c : ResultCode) (df : Bool) : (s.endCommand c df).bitv = s.bitv := rfl
@[simp] theorem State.endCommand_nfound (s : State) (c : ResultCode) (df : Bool) : (s.endCommand c df).nfound = s.nfound := rfl
@[simp] theorem State.endCommand_nslot (s : State) (c : ResultCode) (df : Bool) : (s.endCommand c df).nslot = s.nslot := rfl
@[simp] theorem State.endCommand_hdr (s : State) (c : ResultCode) (df : Bool) : (s.endCommand c df).hdr = s.hdr := rfl
@[simp] theorem State.endCommand_sh (s : State) (c : ResultCode) (df : Bool) : (s.endCommand c df).sh = s.sh := rfl
@[simp] theorem State.endCommand_pt (s : State) (c : ResultCode) (df : Bool) : (s.endCommand c df).pt = s.pt := rfl
@[simp] theorem State.endCommand_ordsec (s : State) (c : ResultCode) (df : Bool) : (s.endCommand c df).ordsec = s.ordsec := rfl
@[simp] theorem State.endCommand_ordpos (s : State) (c : ResultCode) (df : Bool) : (s.endCommand c df).ordpos = s.ordpos := rfl
@[simp] theorem State.endCommand_tb (s : State) (c : ResultCode) (df : Bool) : (s.endCommand c df).tb = s.tb := rfl
@[simp] theorem State.endCommand_wb (s : State) (c : ResultCode) (df : Bool) : (s.endCommand c df).wb = s.wb := rfl
@[simp] theorem State.endCommand_ob (s : State) (c : ResultCode) (df : Bool) : (s.endCommand c df).ob = s.ob := rfl
@[simp] theorem State.endCommand_nb (s : State) (c : ResultCode) (df : Bool) : (s.endCommand c df).nb = s.nb := rfl
@[simp] theorem State.endCommand_diag (s : State) (c : ResultCode) (df : Bool) : (s.endCommand c df).diag = s.diag := rfl
@[simp] theorem State.endCommand_params (s : State) (c : ResultCode) (df : Bool) : (s.endCommand c df).params = s.params := rfl
@[simp] theorem State.endCommand_ramEpoch (s : State) (c : ResultCode) (df : Bool) : (s.endCommand c df).ramEpoch = s.ramEpoch := rfl
@[simp] theorem State.endCommand_pending (s : State) (c : ResultCode) (df : Bool) : (s.endCommand c df).pending = s.pending := rfl
@[simp] theorem State.endCommand_replies (s : State) (c : ResultCode) (df : Bool) : (s.endCommand c df).replies = s.replies := rfl

end Sys2Proof.Machine
end

