-- ==== Sys2Proof/Laws/Ops.lean ====
section
/-!
SUPPORT. What the block reads of its RAM after each update of a command: the updates that leave a
buffer alone, and the elements an update stores.
-/

namespace Sys2Proof.Machine

@[simp] theorem State.setCur_tbByte (s : State) (n : Nat) :
    (s.setCur n).tbByte = s.tbByte := rfl
@[simp] theorem State.setBitv_tbByte (s : State) (b : Bool) :
    (s.setBitv b).tbByte = s.tbByte := rfl
@[simp] theorem State.putWork_tbByte (s : State) (bs : List Byte) :
    (s.putWork bs).tbByte = s.tbByte := rfl
@[simp] theorem State.clearDecode_tbByte (s : State) :
    s.clearDecode.tbByte = s.tbByte := rfl
@[simp] theorem State.putOutput_tbByte (s : State) (bs : List Byte) :
    (s.putOutput bs).tbByte = s.tbByte := rfl
@[simp] theorem State.putNibbles_tbByte (s : State) (ns : List Byte) :
    (s.putNibbles ns).tbByte = s.tbByte := rfl
@[simp] theorem State.putDiag_tbByte (s : State) (d : Nat) (rs : List DiagWord) :
    (s.putDiag d rs).tbByte = s.tbByte := rfl
@[simp] theorem State.putSh_tbByte (s : State) (h : Vector Byte 8) :
    (s.putSh h).tbByte = s.tbByte := rfl
@[simp] theorem State.putHdr_tbByte (s : State) (h : Vector Byte 7) :
    (s.putHdr h).tbByte = s.tbByte := rfl
@[simp] theorem State.setPos_tbByte (s : State) (p : Word) :
    (s.setPos p).tbByte = s.tbByte := rfl
@[simp] theorem State.putSweep_tbByte (s : State) (n f : Nat) (pt : Vector Word 21) (os : Vector Byte 21) (op : Vector Word 21) :
    (s.putSweep n f pt os op).tbByte = s.tbByte := rfl
@[simp] theorem State.clearPayload_tbByte (s : State) :
    s.clearPayload.tbByte = s.tbByte := rfl
@[simp] theorem State.putPayload_tbByte (s : State) (r : List Byte) :
    (s.putPayload r).tbByte = s.tbByte := rfl
@[simp] theorem State.endCommand_tbByte (s : State) (c : ResultCode) (df : Bool) :
    (s.endCommand c df).tbByte = s.tbByte := rfl

@[simp] theorem State.setCur_wbByte (s : State) (n : Nat) :
    (s.setCur n).wbByte = s.wbByte := rfl
@[simp] theorem State.setBitv_wbByte (s : State) (b : Bool) :
    (s.setBitv b).wbByte = s.wbByte := rfl
@[simp] theorem State.clearDecode_wbByte (s : State) :
    s.clearDecode.wbByte = s.wbByte := rfl
@[simp] theorem State.putOutput_wbByte (s : State) (bs : List Byte) :
    (s.putOutput bs).wbByte = s.wbByte := rfl
@[simp] theorem State.putNibbles_wbByte (s : State) (ns : List Byte) :
    (s.putNibbles ns).wbByte = s.wbByte := rfl
@[simp] theorem State.putDiag_wbByte (s : State) (d : Nat) (rs : List DiagWord) :
    (s.putDiag d rs).wbByte = s.wbByte := rfl
@[simp] theorem State.putSh_wbByte (s : State) (h : Vector Byte 8) :
    (s.putSh h).wbByte = s.wbByte := rfl
@[simp] theorem State.putHdr_wbByte (s : State) (h : Vector Byte 7) :
    (s.putHdr h).wbByte = s.wbByte := rfl
@[simp] theorem State.setPos_wbByte (s : State) (p : Word) :
    (s.setPos p).wbByte = s.wbByte := rfl
@[simp] theorem State.putSweep_wbByte (s : State) (n f : Nat) (pt : Vector Word 21) (os : Vector Byte 21) (op : Vector Word 21) :
    (s.putSweep n f pt os op).wbByte = s.wbByte := rfl
@[simp] theorem State.clearPayload_wbByte (s : State) :
    s.clearPayload.wbByte = s.wbByte := rfl
@[simp] theorem State.putPayload_wbByte (s : State) (r : List Byte) :
    (s.putPayload r).wbByte = s.wbByte := rfl
@[simp] theorem State.endCommand_wbByte (s : State) (c : ResultCode) (df : Bool) :
    (s.endCommand c df).wbByte = s.wbByte := rfl

@[simp] theorem State.setCur_obByte (s : State) (n : Nat) :
    (s.setCur n).obByte = s.obByte := rfl
@[simp] theorem State.setBitv_obByte (s : State) (b : Bool) :
    (s.setBitv b).obByte = s.obByte := rfl
@[simp] theorem State.putWork_obByte (s : State) (bs : List Byte) :
    (s.putWork bs).obByte = s.obByte := rfl
@[simp] theorem State.clearDecode_obByte (s : State) :
    s.clearDecode.obByte = s.obByte := rfl
@[simp] theorem State.putNibbles_obByte (s : State) (ns : List Byte) :
    (s.putNibbles ns).obByte = s.obByte := rfl
@[simp] theorem State.putDiag_obByte (s : State) (d : Nat) (rs : List DiagWord) :
    (s.putDiag d rs).obByte = s.obByte := rfl
@[simp] theorem State.putSh_obByte (s : State) (h : Vector Byte 8) :
    (s.putSh h).obByte = s.obByte := rfl
@[simp] theorem State.putHdr_obByte (s : State) (h : Vector Byte 7) :
    (s.putHdr h).obByte = s.obByte := rfl
@[simp] theorem State.setPos_obByte (s : State) (p : Word) :
    (s.setPos p).obByte = s.obByte := rfl
@[simp] theorem State.putSweep_obByte (s : State) (n f : Nat) (pt : Vector Word 21) (os : Vector Byte 21) (op : Vector Word 21) :
    (s.putSweep n f pt os op).obByte = s.obByte := rfl
@[simp] theorem State.clearPayload_obByte (s : State) :
    s.clearPayload.obByte = s.obByte := rfl
@[simp] theorem State.endCommand_obByte (s : State) (c : ResultCode) (df : Bool) :
    (s.endCommand c df).obByte = s.obByte := rfl

@[simp] theorem State.setCur_nbByte (s : State) (n : Nat) :
    (s.setCur n).nbByte = s.nbByte := rfl
@[simp] theorem State.setBitv_nbByte (s : State) (b : Bool) :
    (s.setBitv b).nbByte = s.nbByte := rfl
@[simp] theorem State.putWork_nbByte (s : State) (bs : List Byte) :
    (s.putWork bs).nbByte = s.nbByte := rfl
@[simp] theorem State.clearDecode_nbByte (s : State) :
    s.clearDecode.nbByte = s.nbByte := rfl
@[simp] theorem State.putOutput_nbByte (s : State) (bs : List Byte) :
    (s.putOutput bs).nbByte = s.nbByte := rfl
@[simp] theorem State.putDiag_nbByte (s : State) (d : Nat) (rs : List DiagWord) :
    (s.putDiag d rs).nbByte = s.nbByte := rfl
@[simp] theorem State.putSh_nbByte (s : State) (h : Vector Byte 8) :
    (s.putSh h).nbByte = s.nbByte := rfl
@[simp] theorem State.putHdr_nbByte (s : State) (h : Vector Byte 7) :
    (s.putHdr h).nbByte = s.nbByte := rfl
@[simp] theorem State.setPos_nbByte (s : State) (p : Word) :
    (s.setPos p).nbByte = s.nbByte := rfl
@[simp] theorem State.putSweep_nbByte (s : State) (n f : Nat) (pt : Vector Word 21) (os : Vector Byte 21) (op : Vector Word 21) :
    (s.putSweep n f pt os op).nbByte = s.nbByte := rfl
@[simp] theorem State.clearPayload_nbByte (s : State) :
    s.clearPayload.nbByte = s.nbByte := rfl
@[simp] theorem State.putPayload_nbByte (s : State) (r : List Byte) :
    (s.putPayload r).nbByte = s.nbByte := rfl
@[simp] theorem State.endCommand_nbByte (s : State) (c : ResultCode) (df : Bool) :
    (s.endCommand c df).nbByte = s.nbByte := rfl

@[simp] theorem State.setCur_diagAt (s : State) (n : Nat) :
    (s.setCur n).diagAt = s.diagAt := rfl
@[simp] theorem State.setBitv_diagAt (s : State) (b : Bool) :
    (s.setBitv b).diagAt = s.diagAt := rfl
@[simp] theorem State.putWork_diagAt (s : State) (bs : List Byte) :
    (s.putWork bs).diagAt = s.diagAt := rfl
@[simp] theorem State.clearDecode_diagAt (s : State) :
    s.clearDecode.diagAt = s.diagAt := rfl
@[simp] theorem State.putOutput_diagAt (s : State) (bs : List Byte) :
    (s.putOutput bs).diagAt = s.diagAt := rfl
@[simp] theorem State.putNibbles_diagAt (s : State) (ns : List Byte) :
    (s.putNibbles ns).diagAt = s.diagAt := rfl
@[simp] theorem State.putSh_diagAt (s : State) (h : Vector Byte 8) :
    (s.putSh h).diagAt = s.diagAt := rfl
@[simp] theorem State.putHdr_diagAt (s : State) (h : Vector Byte 7) :
    (s.putHdr h).diagAt = s.diagAt := rfl
@[simp] theorem State.setPos_diagAt (s : State) (p : Word) :
    (s.setPos p).diagAt = s.diagAt := rfl
@[simp] theorem State.putSweep_diagAt (s : State) (n f : Nat) (pt : Vector Word 21) (os : Vector Byte 21) (op : Vector Word 21) :
    (s.putSweep n f pt os op).diagAt = s.diagAt := rfl
@[simp] theorem State.clearPayload_diagAt (s : State) :
    s.clearPayload.diagAt = s.diagAt := rfl
@[simp] theorem State.putPayload_diagAt (s : State) (r : List Byte) :
    (s.putPayload r).diagAt = s.diagAt := rfl
@[simp] theorem State.endCommand_diagAt (s : State) (c : ResultCode) (df : Bool) :
    (s.endCommand c df).diagAt = s.diagAt := rfl

@[simp] theorem State.setCur_limit (s : State) (n : Nat) :
    (s.setCur n).limit = s.limit := rfl
@[simp] theorem State.setBitv_limit (s : State) (b : Bool) :
    (s.setBitv b).limit = s.limit := rfl
@[simp] theorem State.putWork_limit (s : State) (bs : List Byte) :
    (s.putWork bs).limit = s.limit := rfl
@[simp] theorem State.clearDecode_limit (s : State) :
    s.clearDecode.limit = s.limit := rfl
@[simp] theorem State.putOutput_limit (s : State) (bs : List Byte) :
    (s.putOutput bs).limit = s.limit := rfl
@[simp] theorem State.putNibbles_limit (s : State) (ns : List Byte) :
    (s.putNibbles ns).limit = s.limit := rfl
@[simp] theorem State.putDiag_limit (s : State) (d : Nat) (rs : List DiagWord) :
    (s.putDiag d rs).limit = s.limit := rfl
@[simp] theorem State.putSh_limit (s : State) (h : Vector Byte 8) :
    (s.putSh h).limit = s.limit := rfl
@[simp] theorem State.putHdr_limit (s : State) (h : Vector Byte 7) :
    (s.putHdr h).limit = s.limit := rfl
@[simp] theorem State.setPos_limit (s : State) (p : Word) :
    (s.setPos p).limit = s.limit := rfl
@[simp] theorem State.putSweep_limit (s : State) (n f : Nat) (pt : Vector Word 21) (os : Vector Byte 21) (op : Vector Word 21) :
    (s.putSweep n f pt os op).limit = s.limit := rfl
@[simp] theorem State.clearPayload_limit (s : State) :
    s.clearPayload.limit = s.limit := rfl
@[simp] theorem State.putPayload_limit (s : State) (r : List Byte) :
    (s.putPayload r).limit = s.limit := rfl
@[simp] theorem State.endCommand_limit (s : State) (c : ResultCode) (df : Bool) :
    (s.endCommand c df).limit = s.limit := rfl

@[simp] theorem State.setCur_tbBit (s : State) (n : Nat) :
    (s.setCur n).tbBit = s.tbBit := rfl
@[simp] theorem State.setBitv_tbBit (s : State) (b : Bool) :
    (s.setBitv b).tbBit = s.tbBit := rfl
@[simp] theorem State.putWork_tbBit (s : State) (bs : List Byte) :
    (s.putWork bs).tbBit = s.tbBit := rfl
@[simp] theorem State.clearDecode_tbBit (s : State) :
    s.clearDecode.tbBit = s.tbBit := rfl
@[simp] theorem State.putOutput_tbBit (s : State) (bs : List Byte) :
    (s.putOutput bs).tbBit = s.tbBit := rfl
@[simp] theorem State.putNibbles_tbBit (s : State) (ns : List Byte) :
    (s.putNibbles ns).tbBit = s.tbBit := rfl
@[simp] theorem State.putDiag_tbBit (s : State) (d : Nat) (rs : List DiagWord) :
    (s.putDiag d rs).tbBit = s.tbBit := rfl
@[simp] theorem State.putSh_tbBit (s : State) (h : Vector Byte 8) :
    (s.putSh h).tbBit = s.tbBit := rfl
@[simp] theorem State.putHdr_tbBit (s : State) (h : Vector Byte 7) :
    (s.putHdr h).tbBit = s.tbBit := rfl
@[simp] theorem State.setPos_tbBit (s : State) (p : Word) :
    (s.setPos p).tbBit = s.tbBit := rfl
@[simp] theorem State.putSweep_tbBit (s : State) (n f : Nat) (pt : Vector Word 21) (os : Vector Byte 21) (op : Vector Word 21) :
    (s.putSweep n f pt os op).tbBit = s.tbBit := rfl
@[simp] theorem State.clearPayload_tbBit (s : State) :
    s.clearPayload.tbBit = s.tbBit := rfl
@[simp] theorem State.putPayload_tbBit (s : State) (r : List Byte) :
    (s.putPayload r).tbBit = s.tbBit := rfl
@[simp] theorem State.endCommand_tbBit (s : State) (c : ResultCode) (df : Bool) :
    (s.endCommand c df).tbBit = s.tbBit := rfl

/-- A run of values written from index 0 on, read back through a free value. -/
theorem Memory.getD_writeRange_zero {α : Type} (m : Memory α) (vs : List α) (i : Nat) (d : α) :
    ((m.writeRange 0 vs).get? i).getD d =
      if h : i < vs.length then vs[i] else (m.get? i).getD d := by
  rw [Memory.get?_writeRange]
  by_cases h : i < vs.length
  · simp [h]
  · simp [h]

/-- `WB` after a stored run: the run's bytes, then what stood there (R46, R133). -/
theorem State.putWork_wbByte (s : State) (bs : List Byte) (i : Nat) :
    (s.putWork bs).wbByte i = if h : i < bs.length then bs[i] else s.wbByte i :=
  Memory.getD_writeRange_zero s.wb bs i _

/-- `OB` after delivered output: its bytes, then what stood there (R46, R116). -/
theorem State.putOutput_obByte (s : State) (bs : List Byte) (i : Nat) :
    (s.putOutput bs).obByte i = if h : i < bs.length then bs[i] else s.obByte i :=
  Memory.getD_writeRange_zero s.ob bs i _

/-- `OB` after a delivered payload: its bytes, then what stood there (R46, R196). -/
theorem State.putPayload_obByte (s : State) (r : List Byte) (i : Nat) :
    (s.putPayload r).obByte i = if h : i < r.length then r[i] else s.obByte i :=
  Memory.getD_writeRange_zero s.ob r i _

/-- `NB` after delivered nibbles: their entries, then what stood there (R46, R116). -/
theorem State.putNibbles_nbByte (s : State) (ns : List Byte) (i : Nat) :
    (s.putNibbles ns).nbByte i = if h : i < ns.length then ns[i] else s.nbByte i :=
  Memory.getD_writeRange_zero s.nb ns i _

/-- `DIAG` after appended records: the records from `d` on, every other record as it stood
(R46, R115). -/
theorem State.putDiag_diagAt (s : State) (d : Nat) (rs : List DiagWord) (i : Nat) :
    (s.putDiag d rs).diagAt i =
      if d ≤ i ∧ i < d + rs.length then (rs[i - d]?).getD (s.diagAt i) else s.diagAt i := by
  have hget := Memory.get?_writeRange d i rs s.diag
  unfold State.diagAt
  rw [State.putDiag_diag, hget]
  by_cases h : d ≤ i ∧ i < d + rs.length
  · rw [if_pos h, if_pos h]
    have hi : i - d < rs.length := by omega
    simp [hi]
  · rw [if_neg h, if_neg h]
    rfl

/-- RAM reads alike in every byte-wide buffer when it does so in each of the four. -/
theorem State.ramByte_cases {P : Config.ByteRam → Prop} (htb : P .tb) (hwb : P .wb) (hob : P .ob)
    (hnb : P .nb) (r : Config.ByteRam) : P r := by
  cases r
  · exact htb
  · exact hwb
  · exact hob
  · exact hnb

@[simp] theorem State.ramByte_tb (s : State) : s.ramByte .tb = s.tbByte := rfl
@[simp] theorem State.ramByte_wb (s : State) : s.ramByte .wb = s.wbByte := rfl
@[simp] theorem State.ramByte_ob (s : State) : s.ramByte .ob = s.obByte := rfl
@[simp] theorem State.ramByte_nb (s : State) : s.ramByte .nb = s.nbByte := rfl

/-! ## The status a command ends with -/

@[simp] theorem statusBits_code (c : ResultCode) (df : Bool) :
    (statusBits c df).extractLsb' 0 4 = codeBits c := by
  cases c <;> cases df <;> rfl

@[simp] theorem statusBits_df (c : ResultCode) (df : Bool) :
    (statusBits c df).getLsbD 4 = df := by
  cases c <;> cases df <;> rfl

/-- The result codes have distinct numbers (R240). -/
theorem codeBits_injective {c c' : ResultCode} (h : codeBits c = codeBits c') : c = c' := by
  cases c <;> cases c' <;> first | rfl | exact absurd h (by decide)

@[simp] theorem State.endCommand_code (s : State) (c : ResultCode) (df : Bool) :
    (s.endCommand c df).code = codeBits c := statusBits_code c df

@[simp] theorem State.endCommand_df (s : State) (c : ResultCode) (df : Bool) :
    (s.endCommand c df).df = df := statusBits_df c df

/-! ## Bounds of the cursor -/

/-- `LIMIT` fits the cursor's 19 bits (R27). -/
theorem State.limit_lt (s : State) : s.limit < 2 ^ 19 := by
  have := s.tblen.isLt
  unfold State.limit
  omega

/-- A cursor position up to `LIMIT` is stored exactly (R27, R139). -/
theorem State.setCur_toNat (s : State) {n : Nat} (h : n ≤ s.limit) :
    (s.setCur n).cur.toNat = n := by
  have := s.limit_lt
  rw [State.setCur_cur, BitVec.toNat_ofNat]
  exact Nat.mod_eq_of_lt (by omega)

/-! ## The memories at reset -/

/-- The memories of the reset state stand in canonical form (R50). -/
theorem State.reset_wf : State.reset.tb.wf ∧ State.reset.wb.wf ∧ State.reset.ob.wf ∧
    State.reset.nb.wf ∧ State.reset.diag.wf := by decide

end Sys2Proof.Machine
end

