-- ==== Sys2Proof/Laws/Cursor.lean ====
section
/-!
SUPPORT. What the bit stream, the byte reads and the sync search deliver (20_memory.md R65;
41_bit_cursor_sync.md R133, R134).
-/

namespace Sys2Proof.Machine

/-! ## Byte reads -/

/-- Bit `7 - b` of a byte read at stream position `c` is stream bit `c + b` (R65). -/
theorem State.streamByte_bit (s : State) (c : Nat) {b : Nat} (hb : b < 8) :
    (s.streamByte c).getLsbD (7 - b) = s.tbBit (c + b) := by
  unfold State.streamByte
  obtain rfl | rfl | rfl | rfl | rfl | rfl | rfl | rfl :
      b = 0 ∨ b = 1 ∨ b = 2 ∨ b = 3 ∨ b = 4 ∨ b = 5 ∨ b = 6 ∨ b = 7 := by omega
  all_goals
    simp only [BitVec.getLsbD_append, BitVec.getLsbD_ofBool]
    simp

@[simp] theorem State.streamBytes_length (s : State) (c n : Nat) :
    (s.streamBytes c n).length = n := by
  simp [State.streamBytes]

/-- Byte `j` of a read is the stream byte at `c + 8j` (R133). -/
theorem State.streamBytes_getElem (s : State) (c n j : Nat)
    (h : j < (s.streamBytes c n).length) :
    (s.streamBytes c n)[j] = s.streamByte (c + 8 * j) := by
  simp [State.streamBytes]

@[simp] theorem State.wbBytes_length (s : State) (n : Nat) : (s.wbBytes n).length = n := by
  simp [State.wbBytes]

theorem State.wbBytes_getElem (s : State) (n j : Nat) (h : j < (s.wbBytes n).length) :
    (s.wbBytes n)[j] = s.wbByte j := by
  simp [State.wbBytes]

@[simp] theorem State.tbSpan_length (s : State) (a b : Nat) : (s.tbSpan a b).length = b - a := by
  simp [State.tbSpan]

theorem State.tbSpan_getElem (s : State) (a b j : Nat) (h : j < (s.tbSpan a b).length) :
    (s.tbSpan a b)[j] = s.tbByte (a + j) := by
  simp [State.tbSpan]

/-- The work buffer holds the bytes just put there (R133). -/
theorem State.putWork_wbBytes (s : State) (bs : List Byte) :
    (s.putWork bs).wbBytes bs.length = bs := by
  refine List.ext_getElem (by simp) fun j h₁ h₂ => ?_
  rw [State.wbBytes_getElem, State.putWork_wbByte, dif_pos h₂]

/-- Two states with the same stream bits read the same byte. -/
theorem State.streamByte_congr {s s' : State} {c : Nat}
    (h : ∀ b, b < 8 → s'.tbBit (c + b) = s.tbBit (c + b)) : s'.streamByte c = s.streamByte c := by
  unfold State.streamByte
  have h0 := h 0 (by omega)
  rw [Nat.add_zero] at h0
  rw [h0, h 1 (by omega), h 2 (by omega), h 3 (by omega), h 4 (by omega), h 5 (by omega),
    h 6 (by omega), h 7 (by omega)]

/-- Everything `read_bytes(n)` can do: deliver `n` bytes, or end with the cursor at `LIMIT`
(R133). -/
theorem readBytes_cases (n : Nat) (s : State) :
    (s.cur.toNat + 8 * n ≤ s.limit ∨ (n = 0 ∧ s.limit < s.cur.toNat)) ∧
      readBytes n s =
        .done ((s.putWork (s.streamBytes s.cur.toNat n)).setCur (s.cur.toNat + 8 * n)) ∨
    s.limit < s.cur.toNat + 8 * n ∧ n ≠ 0 ∧ readBytes n s = .failed .eShort (s.setCur s.limit) := by
  unfold readBytes
  split
  · exact .inr ⟨by omega, by omega, rfl⟩
  · exact .inl ⟨by omega, rfl⟩

/-! ## Stages of `RDSEC` -/

/-- A stage that was done satisfies `D`, one that ended the command satisfies `F` with its code. -/
def Stage.Sat (D : State → Prop) (F : ResultCode → State → Prop) : Stage → Prop
  | .done s => D s
  | .failed c s => F c s

/-- A stage after a stage: the failures of both are failures of the whole (R136, R244). -/
theorem Stage.sat_andThen {D D' : State → Prop} {F : ResultCode → State → Prop} {st : Stage}
    {f : State → Stage} (h : st.Sat D F) (hf : ∀ s, D s → (f s).Sat D' F) :
    (st.andThen f).Sat D' F := by
  cases st with
  | done s => exact hf s h
  | failed c s => exact h

/-- What a satisfied stage's result is. -/
theorem Stage.result_cases {D : State → Prop} {F : ResultCode → State → Prop} {st : Stage}
    (h : st.Sat D F) :
    (st.result.1 = .ok ∧ D st.result.2 ∨ F st.result.1 st.result.2) := by
  cases st with
  | done s => exact .inl ⟨rfl, h⟩
  | failed c s => exact .inr h

/-- The steps of `RDSEC` one by one: what each leaves where it was done, and what a failure of any of
them leaves (R136, R244). -/
theorem sectorStages_sat {s : State} {F : ResultCode → State → Prop}
    (P1 P2 P3 P4 P5 P6 : State → Prop) (h1 : (findSync s.clearDecode).Sat P1 F)
    (h2 : ∀ t, P1 t → (readBytes hdrRaw t).Sat P2 F) (h3 : ∀ t, P2 t → (headerStage t).Sat P3 F)
    (h4 : ∀ t, P3 t → (findSync t).Sat P4 F) (h5 : ∀ t, P4 t → (readBytes dataRaw t).Sat P5 F)
    (h6 : ∀ t, P5 t → (dataStage t).Sat P6 F) : (sectorStages s).Sat P6 F :=
  Stage.sat_andThen (D := P5) (Stage.sat_andThen (D := P4) (Stage.sat_andThen (D := P3)
    (Stage.sat_andThen (D := P2) (Stage.sat_andThen (D := P1) h1 h2) h3) h4) h5) h6

/-! ## The sync search -/

/-- The run of 1-bits just before `cur` has at least `ones` bits, exactly `ones` below ten, none
before `c` (the loop invariant of R134). -/
def runBefore (bit : Nat → Bool) (c cur ones : Nat) : Prop :=
  c + ones ≤ cur ∧ ones ≤ syncMin ∧ (∀ j, cur - ones ≤ j → j < cur → bit j = true) ∧
  (ones < syncMin → cur - ones = c ∨ bit (cur - ones - 1) = false)

/-- What the sync search delivers over `fuel` bits from `cur`: the first 0-bit after ten or more
1-bits, or the end with no such bit (R134). -/
theorem syncScan_spec (bit : Nat → Bool) (c fuel : Nat) :
    ∀ cur ones, runBefore bit c cur ones →
      let r := syncScan bit fuel cur ones
      (r.1 = true → cur ≤ r.2 ∧ r.2 < cur + fuel ∧ c + 10 ≤ r.2 ∧ bit r.2 = false ∧
        (∀ j, r.2 - 10 ≤ j → j < r.2 → bit j = true)) ∧
      (r.1 = false → r.2 = cur + fuel) ∧
      ∀ k, cur ≤ k → (r.1 = true → k < r.2) → (r.1 = false → k < cur + fuel) →
        c + 10 ≤ k → bit k = false → ∃ j, k - 10 ≤ j ∧ j < k ∧ bit j = false := by
  induction fuel with
  | zero =>
    intro cur ones _
    simp only [syncScan]
    exact ⟨by simp, by simp, fun k h₁ _ h₃ => absurd (h₃ trivial) (by omega)⟩
  | succ fuel ih =>
    intro cur ones hrun
    obtain ⟨hc, hten, hones, hstop⟩ := hrun
    simp only [syncScan]
    by_cases hb : bit cur = true
    · rw [if_pos hb]
      have hrun' : runBefore bit c (cur + 1) (min (ones + 1) syncMin) := by
        refine ⟨by omega, by omega, fun j h₁ h₂ => ?_, fun h => ?_⟩
        · by_cases hj : j = cur
          · rw [hj, hb]
          · exact hones j (by omega) (by omega)
        · have hlt : ones < syncMin := by omega
          have hsub : cur + 1 - min (ones + 1) syncMin = cur - ones := by omega
          rw [hsub]
          exact hstop hlt
      obtain ⟨h₁, h₂, h₃⟩ := ih (cur + 1) _ hrun'
      refine ⟨fun h => ?_, fun h => by rw [h₂ h]; omega, fun k hk hf hn h10 hz => ?_⟩
      · obtain ⟨a₁, a₂, a₃⟩ := h₁ h
        exact ⟨by omega, by omega, a₃⟩
      · have hkc : k ≠ cur := by
          intro hkc
          rw [hkc, hb] at hz
          exact absurd hz (by simp)
        exact h₃ k (by omega) hf (fun h => by have := hn h; omega) h10 hz
    · rw [if_neg hb]
      have hbf : bit cur = false := by simpa using hb
      by_cases ho : ones = syncMin
      · rw [if_pos ho]
        have hm : syncMin = 10 := rfl
        refine ⟨fun _ => ⟨Nat.le_refl _, by omega, by omega, hbf, fun j h₁ h₂ => ?_⟩, by simp,
          fun k hk hf _ => ?_⟩
        · exact hones j (by omega) h₂
        · exact absurd (hf rfl) (by omega)
      · rw [if_neg ho]
        have hrun' : runBefore bit c (cur + 1) 0 :=
          ⟨by omega, by omega, fun j h₁ h₂ => by omega, fun _ => .inr (by simpa using hbf)⟩
        obtain ⟨h₁, h₂, h₃⟩ := ih (cur + 1) 0 hrun'
        refine ⟨fun h => ?_, fun h => by rw [h₂ h]; omega, fun k hk hf hn h10 hz => ?_⟩
        · obtain ⟨a₁, a₂, a₃⟩ := h₁ h
          exact ⟨by omega, by omega, a₃⟩
        · by_cases hkc : k = cur
          · subst k
            have hm : syncMin = 10 := rfl
            rcases hstop (by omega) with h | h
            · omega
            · exact ⟨cur - ones - 1, by omega, by omega, h⟩
          · exact h₃ k (by omega) hf (fun h => by have := hn h; omega) h10 hz

/-- The sync search started afresh at `c` (R134). -/
theorem runBefore_start (bit : Nat → Bool) (c : Nat) : runBefore bit c c 0 :=
  ⟨by omega, by omega, fun j h₁ h₂ => by omega, fun _ => .inl (by omega)⟩

/-- Everything `find_sync()` can do: rest on the first sync boundary, or end at `LIMIT` with none
there (R134). -/
theorem findSync_cases (s : State) (h : s.cur.toNat ≤ s.limit) :
    (∃ k, s.firstSync s.cur.toNat k ∧ findSync s = .done (s.setCur k)) ∨
    s.noSync s.cur.toNat ∧ findSync s = .failed .eSync (s.setCur s.limit) := by
  obtain ⟨h₁, h₂, h₃⟩ := syncScan_spec s.tbBit s.cur.toNat (s.limit - s.cur.toNat) s.cur.toNat 0
    (runBefore_start _ _)
  unfold findSync
  cases hr : (syncScan s.tbBit (s.limit - s.cur.toNat) s.cur.toNat 0).1 with
  | true =>
    obtain ⟨a₁, a₂, a₃, a₄, a₅⟩ := h₁ hr
    refine .inl ⟨_, ⟨⟨a₃, by omega, a₄, a₅⟩, fun k' hk' hs => ?_⟩, by simp [hr]⟩
    obtain ⟨b₁, b₂, b₃, b₄⟩ := hs
    obtain ⟨j, c₁, c₂, c₃⟩ := h₃ k' (by omega) (fun _ => hk') (fun hf => by simp [hr] at hf) b₁ b₃
    rw [b₄ j c₁ c₂] at c₃
    exact absurd c₃ (by simp)
  | false =>
    refine .inr ⟨fun k' hs => ?_, ?_⟩
    · obtain ⟨b₁, b₂, b₃, b₄⟩ := hs
      obtain ⟨j, c₁, c₂, c₃⟩ := h₃ k' (by omega) (fun hf => by simp [hr] at hf)
        (fun _ => by omega) b₁ b₃
      rw [b₄ j c₁ c₂] at c₃
      exact absurd c₃ (by simp)
    · have := h₂ hr
      simp only [hr, this]
      rw [show s.cur.toNat + (s.limit - s.cur.toNat) = s.limit by omega]
      simp

/-- `find_sync()` moves the cursor only (R134). -/
theorem findSync_moves_cursor (s : State) :
    ∃ n, findSync s = .done (s.setCur n) ∨ findSync s = .failed .eSync (s.setCur n) := by
  refine ⟨(syncScan s.tbBit (s.limit - s.cur.toNat) s.cur.toNat 0).2, ?_⟩
  unfold findSync
  cases h : (syncScan s.tbBit (s.limit - s.cur.toNat) s.cur.toNat 0).1 <;> simp [h]

/-- A first sync boundary is unique (R134). -/
theorem State.firstSync_unique {s : State} {c k k' : Nat} (h : s.firstSync c k)
    (h' : s.firstSync c k') : k = k' := by
  rcases Nat.lt_trichotomy k k' with hlt | heq | hlt
  · exact absurd h.1 (h'.2 k hlt)
  · exact heq
  · exact absurd h'.1 (h.2 k' hlt)

/-- With a first boundary, `find_sync()` rests on it (R134). -/
theorem findSync_of_firstSync {s : State} {k : Nat} (h : s.firstSync s.cur.toNat k) :
    findSync s = .done (s.setCur k) := by
  have hle : s.cur.toNat ≤ s.limit := by
    have := h.1.1
    have := h.1.2.1
    omega
  rcases findSync_cases s hle with ⟨k', hk', he⟩ | ⟨hno, _⟩
  · rw [State.firstSync_unique h hk', he]
  · exact absurd h.1 (hno k)

/-- With no boundary, `find_sync()` ends at `LIMIT` (R134). -/
theorem findSync_of_noSync {s : State} (hle : s.cur.toNat ≤ s.limit)
    (h : s.noSync s.cur.toNat) : findSync s = .failed .eSync (s.setCur s.limit) := by
  rcases findSync_cases s hle with ⟨k', hk', _⟩ | ⟨_, he⟩
  · exact absurd hk'.1 (h k')
  · exact he

/-! ## `RDSEC` and the fields it neither reads nor writes -/

/-- The state with another `CMD` and other events to come (log entry 5). -/
def State.withHost (cmd : Byte) (events : List HostEvent) (s : State) : State :=
  { s with cmd := cmd, pending := events }

/-- A stage with the same code and a changed state. -/
def Stage.mapState (f : State → State) : Stage → Stage
  | .done s => .done (f s)
  | .failed c s => .failed c (f s)

/-- A stage that carries a change along does so after any stage that did. -/
theorem Stage.mapState_andThen {g : State → State} {f : State → Stage}
    (hf : ∀ s, f (g s) = (f s).mapState g) (st : Stage) :
    (st.mapState g).andThen f = (st.andThen f).mapState g := by
  cases st
  · exact hf _
  · rfl

/-- The sync search carries the host's fields along (R134). -/
theorem findSync_withHost (c : Byte) (p : List HostEvent) (s : State) :
    findSync (s.withHost c p) = (findSync s).mapState (State.withHost c p) := by
  unfold findSync
  rw [show (s.withHost c p).tbBit = s.tbBit from rfl, show (s.withHost c p).limit = s.limit from rfl,
    show (s.withHost c p).cur = s.cur from rfl]
  generalize syncScan s.tbBit (s.limit - s.cur.toNat) s.cur.toNat 0 = r
  dsimp only
  split <;> rfl

/-- The byte reads carry the host's fields along (R133). -/
theorem readBytes_withHost (c : Byte) (p : List HostEvent) (n : Nat) (s : State) :
    readBytes n (s.withHost c p) = (readBytes n s).mapState (State.withHost c p) := by
  unfold readBytes
  rw [show (s.withHost c p).limit = s.limit from rfl, show (s.withHost c p).cur = s.cur from rfl]
  split <;> rfl

/-- The header decode carries the host's fields along (R136). -/
theorem headerStage_withHost (c : Byte) (p : List HostEvent) (s : State) :
    headerStage (s.withHost c p) = (headerStage s).mapState (State.withHost c p) := by
  unfold headerStage
  rw [show (s.withHost c p).wbBytes hdrRaw = s.wbBytes hdrRaw from rfl,
    show (s.withHost c p).params = s.params from rfl]
  generalize gcrDecode _ _ _ = d
  rfl

/-- The data decode carries the host's fields along (R136). -/
theorem dataStage_withHost (c : Byte) (p : List HostEvent) (s : State) :
    dataStage (s.withHost c p) = (dataStage s).mapState (State.withHost c p) := by
  unfold dataStage
  rw [show (s.withHost c p).wbBytes dataRaw = s.wbBytes dataRaw from rfl,
    show (s.withHost c p).params = s.params from rfl]
  generalize gcrDecode _ _ _ = d
  rfl

/-- `RDSEC` carries `CMD` and the events to come along: its steps read neither (R136). -/
theorem rdsec_withHost (c : Byte) (p : List HostEvent) (s : State) :
    rdsec (s.withHost c p) = (rdsec s).withHost c p := by
  have h : sectorStages (s.withHost c p) = (sectorStages s).mapState (State.withHost c p) := by
    unfold sectorStages
    rw [show (s.withHost c p).clearDecode = s.clearDecode.withHost c p from rfl, findSync_withHost,
      Stage.mapState_andThen (readBytes_withHost c p _),
      Stage.mapState_andThen (headerStage_withHost c p),
      Stage.mapState_andThen (findSync_withHost c p),
      Stage.mapState_andThen (readBytes_withHost c p _),
      Stage.mapState_andThen (dataStage_withHost c p)]
  unfold rdsec
  simp only [h]
  cases sectorStages s <;> rfl

/-! ## The track pass -/

/-- A track pass has one entry for each slot (R137). -/
theorem trackPass_length (n : Nat) (s : State) : (trackPass n s).length = n := by
  induction n generalizing s with
  | zero => rfl
  | succ n ih => simp [trackPass, ih]

end Sys2Proof.Machine
end

