-- ==== Sys2Proof/Laws/Gcr.lean ====
section
/-!
SUPPORT. What the GCR decoder delivers: the codewords are the 5-bit pieces of the input bit stream
(40_gcr_decode.md R112), each entry is a nibble or the sentinel (R113), each byte packs two entries
(R114), and the records are those of the invalid codewords (R41, R115).
-/

namespace Sys2Proof.Machine

/-- Bit `m` of a byte sequence read as one bit stream, byte 0 first and bit 7 first (R9, R112). -/
def listBit (input : List Byte) (m : Nat) : Bool := (input.getD (m / 8) 0#8).getLsbD (7 - m % 8)

/-! ## Codewords -/

theorem fiveBits_bit (bit : Nat → Bool) (c : Nat) {i : Nat} (hi : i < 5) :
    (fiveBits bit c).getLsbD i = bit (c + (4 - i)) := by
  unfold fiveBits
  obtain rfl | rfl | rfl | rfl | rfl : i = 0 ∨ i = 1 ∨ i = 2 ∨ i = 3 ∨ i = 4 := by omega
  all_goals
    simp only [BitVec.getLsbD_append, BitVec.getLsbD_ofBool]
    simp

theorem fiveBits_congr {bit bit' : Nat → Bool} {c c' : Nat}
    (h : ∀ j, j < 5 → bit (c + j) = bit' (c' + j)) : fiveBits bit c = fiveBits bit' c' := by
  refine BitVec.eq_of_getLsbD_eq fun i hi => ?_
  rw [fiveBits_bit _ _ hi, fiveBits_bit _ _ hi, h _ (by omega)]

/-- Bit `39 - m` of a group's value is bit `m` of its five bytes as a stream (R112). -/
theorem groupWord_bit (b0 b1 b2 b3 b4 : Byte) (rest : List Byte) {m : Nat} (hm : m < 40) :
    (groupWord b0 b1 b2 b3 b4).getLsbD (39 - m) =
      listBit (b0 :: b1 :: b2 :: b3 :: b4 :: rest) m := by
  unfold groupWord listBit
  have hq : m / 8 = 0 ∨ m / 8 = 1 ∨ m / 8 = 2 ∨ m / 8 = 3 ∨ m / 8 = 4 := by omega
  simp only [BitVec.getLsbD_append]
  rcases hq with h | h | h | h | h
  · rw [h, if_neg (by omega), if_neg (by omega), if_neg (by omega), if_neg (by omega)]
    exact congrArg b0.getLsbD (by omega)
  · rw [h, if_neg (by omega), if_neg (by omega), if_neg (by omega), if_pos (by omega)]
    exact congrArg b1.getLsbD (by omega)
  · rw [h, if_neg (by omega), if_neg (by omega), if_pos (by omega)]
    exact congrArg b2.getLsbD (by omega)
  · rw [h, if_neg (by omega), if_pos (by omega)]
    exact congrArg b3.getLsbD (by omega)
  · rw [h, if_pos (by omega)]
    exact congrArg b4.getLsbD (by omega)

/-- Codeword `k` of a group is its stream's five bits from `5k` on (R112). -/
theorem codewordOf_group (b0 b1 b2 b3 b4 : Byte) (rest : List Byte) {k : Nat} (hk : k < 8) :
    codewordOf (groupWord b0 b1 b2 b3 b4) k =
      fiveBits (listBit (b0 :: b1 :: b2 :: b3 :: b4 :: rest)) (5 * k) := by
  refine BitVec.eq_of_getLsbD_eq fun i hi => ?_
  rw [fiveBits_bit _ _ hi, ← groupWord_bit b0 b1 b2 b3 b4 rest (by omega), codewordOf,
    BitVec.getLsbD_extractLsb']
  simp only [hi, decide_true, Bool.true_and]
  exact congrArg _ (by omega)

/-- The stream of a sequence after its first five bytes (R112). -/
theorem listBit_drop_group (b0 b1 b2 b3 b4 : Byte) (rest : List Byte) (m : Nat) :
    listBit (b0 :: b1 :: b2 :: b3 :: b4 :: rest) (m + 40) = listBit rest m := by
  unfold listBit
  rw [show (m + 40) / 8 = m / 8 + 5 by omega, show (m + 40) % 8 = m % 8 by omega]
  simp

/-- The codewords of `q` whole groups are the consecutive 5-bit pieces of the input stream
(R112). -/
theorem codewords_eq (q : Nat) : ∀ input : List Byte, input.length = 5 * q →
    codewords input = (List.range (8 * q)).map (fun k => fiveBits (listBit input) (5 * k)) := by
  induction q with
  | zero =>
    intro input h
    obtain rfl : input = [] := List.length_eq_zero_iff.1 (by omega)
    rfl
  | succ q ih =>
    intro input h
    match input, h with
    | b0 :: b1 :: b2 :: b3 :: b4 :: rest, h =>
      rw [codewords, ih rest (by simp at h; omega), show 8 * (q + 1) = 8 + 8 * q by omega,
        List.range_add, List.map_append, List.map_map]
      congr 1
      · refine List.map_congr_left fun k hk => ?_
        exact codewordOf_group b0 b1 b2 b3 b4 rest (List.mem_range.1 hk)
      · refine List.map_congr_left fun k _ => ?_
        refine fiveBits_congr fun j _ => ?_
        rw [← listBit_drop_group b0 b1 b2 b3 b4 rest]
        exact congrArg _ (by simp only []; omega)
    | [], h => simp at h
    | [_], h => simp at h; omega
    | [_, _], h => simp at h; omega
    | [_, _, _], h => simp at h; omega
    | [_, _, _, _], h => simp at h; omega

/-! ## Lookup -/

/-- A codeword has no nibble exactly when it is no entry of the table (R111, R113). -/
theorem decTab_eq_none_iff (t : Vector Codeword 16) (cw : Codeword) :
    decTab t cw = none ↔ invalidIn t cw := by
  unfold decTab invalidIn
  rw [Option.map_eq_none_iff, List.find?_eq_none]
  constructor
  · intro h v hv
    exact h v (List.mem_finRange v) (by simpa using hv)
  · intro h v _ hv
    exact h v (by simpa using hv)

/-- The nibble of a codeword is an index at which the table holds it (R111). -/
theorem decTab_eq_some {t : Vector Codeword 16} {cw : Codeword} {n : BitVec 4}
    (h : decTab t cw = some n) : ∃ v : Fin 16, t[v] = cw ∧ n = BitVec.ofNat 4 v.val := by
  unfold decTab at h
  obtain ⟨v, hv, hn⟩ := Option.map_eq_some_iff.1 h
  exact ⟨v, by simpa using List.find?_some hv, hn.symm⟩

/-- In an injective table a codeword stands at one index only (R111). -/
theorem table_injective {t : Vector Codeword 16} (ht : t.toList.Nodup) {v w : Fin 16}
    (h : t[v] = t[w]) : v = w := by
  have hv : v.val < t.toList.length := by simp
  have hw : w.val < t.toList.length := by simp
  have := (List.Nodup.getElem_inj_iff ht (hi := hv) (hj := hw)).1 (by simpa using h)
  exact Fin.ext this

/-- In an injective table the codeword of nibble `v` decodes to `v` (R117). -/
theorem decTab_of_table {t : Vector Codeword 16} (ht : t.toList.Nodup) (v : Fin 16) :
    decTab t t[v] = some (BitVec.ofNat 4 v.val) := by
  cases hd : decTab t t[v] with
  | none => exact absurd rfl ((decTab_eq_none_iff t _).1 hd v)
  | some n =>
    obtain ⟨w, hw, hn⟩ := decTab_eq_some hd
    rw [hn, table_injective ht hw]

theorem nibbleOf_of_none {t : Vector Codeword 16} {cw : Codeword} (h : decTab t cw = none) :
    nibbleOf t cw = 0xFF#8 := by
  unfold nibbleOf
  rw [h]
  rfl

theorem nibbleOf_of_some {t : Vector Codeword 16} {cw : Codeword} {n : BitVec 4}
    (h : decTab t cw = some n) : nibbleOf t cw = n.setWidth 8 := by
  unfold nibbleOf
  rw [h]

/-- In an injective table the decoder's entry of a codeword is the one R113 gives. -/
theorem nibbleOf_isEntry {t : Vector Codeword 16} (ht : t.toList.Nodup) (cw : Codeword) :
    isEntry t cw (nibbleOf t cw) := by
  refine ⟨fun v hv => ?_, fun h => nibbleOf_of_none ((decTab_eq_none_iff t cw).2 h)⟩
  subst hv
  rw [nibbleOf_of_some (decTab_of_table ht v)]
  have := v.isLt
  apply BitVec.eq_of_toNat_eq
  simp

/-- An entry is the sentinel exactly for an invalid codeword: a nibble is below 16 (R113). -/
theorem nibbleOf_eq_sentinel_iff (t : Vector Codeword 16) (cw : Codeword) :
    nibbleOf t cw = 0xFF#8 ↔ invalidIn t cw := by
  rw [← decTab_eq_none_iff]
  constructor
  · intro h
    cases hd : decTab t cw with
    | none => rfl
    | some n =>
      rw [nibbleOf_of_some hd] at h
      have h2 := congrArg BitVec.toNat h
      have := n.isLt
      simp at h2
      omega
  · exact nibbleOf_of_none

/-! ## Packing -/

/-- The packed byte is the spec's formula (R114). -/
theorem pack_eq_packedByte (n0 n1 : Byte) : (n0 <<< 4) ||| n1 = packedByte n0 n1 := by
  apply BitVec.eq_of_toNat_eq
  have h1 := n1.isLt
  rw [packedByte, BitVec.toNat_or, BitVec.toNat_shiftLeft, BitVec.toNat_ofNat, Nat.or_mod_two_pow,
    Nat.shiftLeft_eq, Nat.mod_eq_of_lt h1]

/-- `2m` entries pack to `m` bytes, byte `j` from entries `2j` and `2j + 1` (R114). -/
theorem packNibbles_spec (m : Nat) : ∀ ns : List Byte, ns.length = 2 * m →
    (packNibbles ns).length = m ∧
    ∀ j, j < m → (packNibbles ns)[j]? = some (packedByte (ns.getD (2 * j) 0#8) (ns.getD (2 * j + 1) 0#8)) := by
  induction m with
  | zero =>
    intro ns h
    obtain rfl : ns = [] := List.length_eq_zero_iff.1 (by omega)
    exact ⟨rfl, fun j hj => absurd hj (by omega)⟩
  | succ m ih =>
    intro ns h
    match ns, h with
    | n0 :: n1 :: rest, h =>
      obtain ⟨hl, hg⟩ := ih rest (by simp at h; omega)
      rw [packNibbles]
      refine ⟨by simp [hl], fun j hj => ?_⟩
      cases j with
      | zero => simp [pack_eq_packedByte]
      | succ j =>
        rw [List.getElem?_cons_succ, hg j (by omega), show 2 * (j + 1) = 2 * j + 1 + 1 by omega]
        simp
    | [], h => simp at h
    | [_], h => simp at h; omega

/-! ## Records -/

/-- The records of two runs of codewords, one after the other (R115). -/
theorem faultRecords_append (t : Vector Codeword 16) (phase : Bool) (as bs : List Codeword) :
    ∀ k, faultRecords t phase k (as ++ bs) =
      faultRecords t phase k as ++ faultRecords t phase (k + as.length) bs := by
  induction as with
  | nil => intro k; simp [faultRecords]
  | cons a as ih =>
    intro k
    simp only [List.cons_append, faultRecords, ih, List.length_cons]
    rw [show k + 1 + as.length = k + (as.length + 1) by omega]
    split <;> simp

/-- The records of `n` codewords are those of the invalid ones, in order (R41, R113, R115). -/
theorem faultRecords_eq_badRecords (t : Vector Codeword 16) (phase : Bool) (cw : Nat → Codeword)
    (n : Nat) : faultRecords t phase 0 ((List.range n).map cw) =
      badRecords t (BitVec.ofBool phase) cw n := by
  induction n with
  | zero => rfl
  | succ n ih =>
    rw [List.range_succ, List.map_append, faultRecords_append, ih]
    unfold badRecords badIndices
    rw [List.range_succ, List.filter_append, List.map_append]
    congr 1
    have hiff := decTab_eq_none_iff t (cw n)
    unfold invalidIn at hiff
    by_cases h : ∀ v : Fin 16, t[v] ≠ cw n
    · rw [List.filter_cons_of_pos (by simpa using h)]
      simp [faultRecords, hiff.2 h, diagWord]
    · have hs : decTab t (cw n) ≠ none := fun hn => h (hiff.1 hn)
      have hsome : (decTab t (cw n)).isNone = false := by
        cases hd : decTab t (cw n) with
        | none => exact absurd hd hs
        | some v => rfl
      rw [List.filter_cons_of_neg (by simpa using h)]
      simp [faultRecords, hsome]

/-- There is at most one record for each codeword (R34). -/
theorem badRecords_length_le (t : Vector Codeword 16) (phase : BitVec 1) (cw : Nat → Codeword)
    (n : Nat) : (badRecords t phase cw n).length ≤ n := by
  unfold badRecords badIndices
  rw [List.length_map]
  exact (List.length_filter_le _ _).trans (by simp)

/-! ## The whole decode -/

/-- What the decode of `q` whole groups delivers (R110, R115). -/
theorem gcrDecode_spec (t : Vector Codeword 16) (phase : Bool) (q : Nat) (input : List Byte)
    (h : input.length = 5 * q) :
    let cw (k : Nat) : Codeword := fiveBits (listBit input) (5 * k)
    (gcrDecode t phase input).nibbles = (List.range (8 * q)).map (fun k => nibbleOf t (cw k)) ∧
    (gcrDecode t phase input).bytes.length = 4 * q ∧
    (∀ j, j < 4 * q → (gcrDecode t phase input).bytes[j]? =
      some (packedByte (nibbleOf t (cw (2 * j))) (nibbleOf t (cw (2 * j + 1))))) ∧
    (gcrDecode t phase input).records = badRecords t (BitVec.ofBool phase) cw (8 * q) := by
  intro cw
  have hcw := codewords_eq q input h
  have hnib : (gcrDecode t phase input).nibbles =
      (List.range (8 * q)).map (fun k => nibbleOf t (cw k)) := by
    simp [gcrDecode, hcw, cw, Function.comp_def]
  have hbytes : (gcrDecode t phase input).bytes =
      packNibbles (gcrDecode t phase input).nibbles := rfl
  obtain ⟨hl, hg⟩ := packNibbles_spec (4 * q) (gcrDecode t phase input).nibbles
    (by rw [hnib]; simp; omega)
  refine ⟨hnib, by rw [hbytes, hl], fun j hj => ?_, ?_⟩
  · rw [hbytes, hg j hj, hnib]
    have h0 : 2 * j < 8 * q := by omega
    have h1 : 2 * j + 1 < 8 * q := by omega
    simp [List.getD_eq_getElem?_getD, h0, h1]
  · show faultRecords t phase 0 (codewords input) = _
    rw [hcw]
    exact faultRecords_eq_badRecords t phase cw (8 * q)

end Sys2Proof.Machine
end

