-- ==== Sys2Proof/Laws/HostPort.lean ====
section
/-!
SUPPORT. What the host map resolves to (20_memory.md R61, R63), and everything a step can do.
-/

namespace Sys2Proof.Machine

/-- A register's offset names the register (R61). -/
theorem targetAt_reg (r : Reg) : targetAt (regOffset r) = some (.reg r) := by
  cases r <;> rfl

/-- No register stands from offset 0x48 on (R61). -/
theorem findReg_eq_none {off : Nat} (h : 0x48 ≤ off) :
    allRegs.find? (fun r => regOffset r == off) = none := by
  rw [List.find?_eq_none]
  intro r _ hr
  have ho : regOffset r = off := by simpa using hr
  have : regOffset r ≤ 0x44 := by cases r <;> decide
  omega

/-- A register stands at every 4-byte-aligned offset below 0x48 (R61). -/
theorem findReg_isSome : ∀ off, off < 0x48 → off % 4 = 0 →
    (allRegs.find? (fun r => regOffset r == off)).isSome = true := by decide +kernel

/-- An element lies in no other space (R61). -/
theorem elemAt_other {sp sp' : Space} {i : Nat} (h : i < spaceCount sp) (hne : sp' ≠ sp) :
    elemAt (spaceBase sp + 4 * i) sp' = none := by
  unfold elemAt
  rw [if_neg]
  revert h
  cases sp <;> cases sp' <;> first
    | exact absurd rfl hne
    | (show i < _ → ¬ (_ ≤ _ ∧ _)
       simp only [spaceBase, spaceCount, Config.ptMax, Config.wbMax, Config.obMax, Config.nbMax,
         Config.diagMax, Config.tbMax]
       omega)

/-- The element at its own offset (R61). -/
theorem elemAt_self {sp : Space} {i : Nat} (h : i < spaceCount sp) :
    elemAt (spaceBase sp + 4 * i) sp = some (.elem sp i) := by
  unfold elemAt
  rw [if_pos (by omega), show (spaceBase sp + 4 * i - spaceBase sp) / 4 = i by omega]

/-- An element's offset names the element (R61). -/
theorem targetAt_elem {sp : Space} {i : Nat} (h : i < spaceCount sp) :
    targetAt (spaceBase sp + 4 * i) = some (.elem sp i) := by
  have hb : 0x100 ≤ spaceBase sp := by cases sp <;> decide
  have hm : sp ∈ allSpaces := by cases sp <;> decide
  unfold targetAt
  rw [findReg_eq_none (by omega)]
  show allSpaces.findSome? (elemAt (spaceBase sp + 4 * i)) = _
  generalize allSpaces = l at hm
  induction l with
  | nil => exact absurd hm (by simp)
  | cons a l ih =>
    rw [List.findSome?_cons]
    by_cases ha : a = sp
    · rw [ha, elemAt_self h]
    · rw [elemAt_other h ha]
      exact ih ((List.mem_cons.1 hm).resolve_left fun he => ha he.symm)

/-- An offset lies in no space exactly when every space leaves it out (R61). -/
theorem findSpace_eq_none_iff (off : Nat) :
    allSpaces.findSome? (elemAt off) = none ↔
      ∀ sp, ¬ (spaceBase sp ≤ off ∧ off < spaceBase sp + 4 * spaceCount sp) := by
  rw [List.findSome?_eq_none_iff]
  constructor
  · intro h sp hc
    have hm : sp ∈ allSpaces := by cases sp <;> decide
    have := h sp hm
    rw [elemAt, if_pos hc] at this
    exact absurd this (by simp)
  · intro h sp _
    rw [elemAt, if_neg (h sp)]

/-- An aligned offset has a target exactly when it lies in the host map (R61, R63). -/
theorem targetAt_isSome_iff {off : Nat} (h4 : off % 4 = 0) :
    (targetAt off).isSome = true ↔ hostMapped off := by
  unfold targetAt
  by_cases hr : off < 0x48
  · have hs := findReg_isSome off hr h4
    cases hf : allRegs.find? (fun r => regOffset r == off) with
    | none => simp [hf] at hs
    | some r => exact ⟨fun _ => .inl (by omega), fun _ => rfl⟩
  · rw [findReg_eq_none (by omega)]
    simp only
    rw [← not_iff_not, Bool.not_eq_true, Option.isSome_eq_false_iff, Option.isNone_iff_eq_none,
      findSpace_eq_none_iff]
    unfold hostMapped
    constructor
    · intro h
      have hhdr := h .hdr
      have hsh := h .sh
      have hpt := h .pt
      have hos := h .ordsec
      have hop := h .ordpos
      have hwb := h .wb
      have hob := h .ob
      have hnb := h .nb
      have hdg := h .diag
      have htb := h .tb
      simp only [spaceBase, spaceCount, Config.ptMax, Config.wbMax, Config.obMax, Config.nbMax,
        Config.diagMax, Config.tbMax] at *
      omega
    · intro h sp
      cases sp <;>
        simp only [spaceBase, spaceCount, Config.ptMax, Config.wbMax, Config.obMax, Config.nbMax,
          Config.diagMax, Config.tbMax] <;> omega

/-- The access to a register of the map (R61). -/
theorem resolve_reg {p : Config.Params} (hp : p.gdbBase % 4 = 0) (r : Reg) :
    resolve p 32 (p.gdbBase + regOffset r) = .ok (.reg r) := by
  have h4 : regOffset r % 4 = 0 := by cases r <;> rfl
  unfold resolve
  rw [if_neg (by simp), if_neg (by omega), if_neg (by omega), Nat.add_sub_cancel_left,
    targetAt_reg]

/-- The access to an element of the map (R61). -/
theorem resolve_elem {p : Config.Params} (hp : p.gdbBase % 4 = 0) {sp : Space} {i : Nat}
    (h : i < spaceCount sp) :
    resolve p 32 (p.gdbBase + spaceBase sp + 4 * i) = .ok (.elem sp i) := by
  have h4 : spaceBase sp % 4 = 0 := by cases sp <;> rfl
  unfold resolve
  rw [if_neg (by simp), if_neg (by omega), if_neg (by omega), Nat.add_assoc,
    Nat.add_sub_cancel_left, targetAt_elem h]

/-- The read of an element its space has stands at base plus 4 times the index (R95). -/
theorem elemRead_of_lt {sp : Space} {i : Nat} (p : Config.Params) (h : i < spaceCount sp) :
    elemRead p sp i = .read 32 (p.gdbBase + spaceBase sp + 4 * i) := if_pos h

/-- The write of an element its space has stands at base plus 4 times the index (R95). -/
theorem elemWrite_of_lt {sp : Space} {i : Nat} (p : Config.Params) (v : Word)
    (h : i < spaceCount sp) :
    elemWrite p sp i v = .write 32 (p.gdbBase + spaceBase sp + 4 * i) v := if_pos h

/-- The read of an element its space does not have has no mapped address (R222). -/
theorem elemRead_of_ge {sp : Space} {i : Nat} (p : Config.Params) (h : spaceCount sp ≤ i) :
    elemRead p sp i = .outside sp i := if_neg (Nat.not_lt.2 h)

/-- The write of an element its space does not have has no mapped address (R222). -/
theorem elemWrite_of_ge {sp : Space} {i : Nat} (p : Config.Params) (v : Word)
    (h : spaceCount sp ≤ i) : elemWrite p sp i v = .outside sp i := if_neg (Nat.not_lt.2 h)

/-- An access has a target exactly when it is 32 bits wide, aligned and inside the map (R63). -/
theorem resolve_ok_iff {p : Config.Params} (hp : p.gdbBase % 4 = 0) (width addr : Nat) :
    (∃ t, resolve p width addr = .ok t) ↔
      width = 32 ∧ addr % 4 = 0 ∧ p.gdbBase ≤ addr ∧ hostMapped (addr - p.gdbBase) := by
  unfold resolve
  by_cases hw : width = 32
  · rw [if_neg (by simpa using hw)]
    by_cases ha : addr % 4 = 0
    · rw [if_neg (by simpa using ha)]
      by_cases hb : addr < p.gdbBase
      · rw [if_pos hb]
        exact ⟨fun ⟨t, h⟩ => absurd h (by simp), fun h => absurd h.2.2.1 (by omega)⟩
      · rw [if_neg hb]
        have hiff := targetAt_isSome_iff (off := addr - p.gdbBase) (by omega)
        cases ht : targetAt (addr - p.gdbBase) with
        | none =>
          rw [ht] at hiff
          exact ⟨fun ⟨t, h⟩ => absurd h (by simp), fun h => absurd (hiff.2 h.2.2.2) (by simp)⟩
        | some t =>
          rw [ht] at hiff
          exact ⟨fun _ => ⟨hw, ha, by omega, hiff.1 rfl⟩, fun _ => ⟨t, rfl⟩⟩
    · rw [if_pos (by simpa using ha)]
      exact ⟨fun ⟨t, h⟩ => absurd h (by simp), fun h => absurd h.2.1 ha⟩
  · rw [if_pos (by simpa using hw)]
    exact ⟨fun ⟨t, h⟩ => absurd h (by simp), fun h => absurd h.1 hw⟩

/-! ## Runs -/

/-- A run whose first step has a next state goes on from it. -/
theorem run_succ {M : Host.Core} {s t : M.State} (h : M.step s = .next t) (k : Nat) :
    M.run (k + 1) s = M.run k t := by
  simp only [Host.Core.run, h]

/-- A run that has a next state has a first step. -/
theorem run_succ_inv {M : Host.Core} {s u : M.State} {k : Nat} (h : M.run (k + 1) s = .next u) :
    ∃ t, M.step s = .next t ∧ M.run k t = .next u := by
  cases hs : M.step s with
  | next t => exact ⟨t, rfl, run_succ hs k ▸ h⟩
  | fault r => simp [Host.Core.run, hs] at h
  | refused r => simp [Host.Core.run, hs] at h

/-- A run in two parts. -/
theorem run_add {M : Host.Core} {m : Nat} : ∀ {s t : M.State}, M.run m s = .next t → ∀ n,
    M.run (m + n) s = M.run n t := by
  induction m with
  | zero =>
    intro s t h n
    rw [Nat.zero_add]
    cases h
    rfl
  | succ m ih =>
    intro s t h n
    obtain ⟨u, hu, hr⟩ := run_succ_inv h
    rw [Nat.add_right_comm, run_succ hu, ih hr]

end Sys2Proof.Machine
end

