-- ==== Sys2Proof/Laws/Payload.lean ====
section
/-!
SUPPORT. What the unscrambler and the marker search deliver (43_rapidlok_payload.md R191, R194).
-/

namespace Sys2Proof.Machine

/-- `n` scrambled bytes give two bytes for each whole triple, the high byte first (R192, R194). -/
theorem unscramble_spec (q : Nat) : ∀ d : List Byte, d.length / 3 = q →
    (unscramble d).length = 2 * q ∧
    ∀ i, i < q →
      (unscramble d)[2 * i]? = some ((tripleWord (d.getD (3 * i) 0#8) (d.getD (3 * i + 1) 0#8)
        (d.getD (3 * i + 2) 0#8)).extractLsb' 8 8) ∧
      (unscramble d)[2 * i + 1]? = some ((tripleWord (d.getD (3 * i) 0#8)
        (d.getD (3 * i + 1) 0#8) (d.getD (3 * i + 2) 0#8)).extractLsb' 0 8) := by
  induction q with
  | zero =>
    intro d h
    match d, h with
    | _ :: _ :: _ :: _, h => simp at h; omega
    | [], _ => exact ⟨rfl, fun i hi => absurd hi (by omega)⟩
    | [_], _ => exact ⟨rfl, fun i hi => absurd hi (by omega)⟩
    | [_, _], _ => exact ⟨rfl, fun i hi => absurd hi (by omega)⟩
  | succ q ih =>
    intro d h
    match d, h with
    | b1 :: b2 :: b3 :: rest, h =>
      obtain ⟨hl, hg⟩ := ih rest (by simp at h; omega)
      rw [unscramble]
      refine ⟨by simp [hl]; omega, fun i hi => ?_⟩
      cases i with
      | zero => simp
      | succ i =>
        obtain ⟨h0, h1⟩ := hg i (by omega)
        rw [show 2 * (i + 1) = 2 * i + 1 + 1 by omega, show 3 * (i + 1) = 3 * i + 1 + 1 + 1 by omega]
        simp [h0, h1]
    | [], h => simp at h
    | [_], h => simp at h
    | [_, _], h => simp at h

/-- The comparison of the marker search (R191). -/
theorem State.markerAt_iff (s : State) (p : Nat) :
    s.markerAt p = true ↔ s.tbByte p = 0xFF#8 ∧ s.tbByte (p + 1) = 0x6B#8 := by
  unfold State.markerAt
  rw [Bool.and_eq_true, beq_iff_eq, beq_iff_eq]
  rfl

/-- The positions the marker search tries (R191). -/
theorem mem_markerRange (st e p : Nat) :
    p ∈ List.range' (st + rlHdrLen) (min (st + rlHdrLen + rlWindow) e - 1 - (st + rlHdrLen)) ↔
      st + 7 ≤ p ∧ p + 2 ≤ min (st + 39) e := by
  have h1 : rlHdrLen = 7 := rfl
  have h2 : rlWindow = 32 := rfl
  rw [List.mem_range'_1, h1, h2]
  omega

/-- The marker search finds the first marker of the window (R191). -/
theorem State.findMarker_eq_some {s : State} {st e m : Nat} (h : s.markerFirst st e m) :
    s.findMarker st e = some m := by
  obtain ⟨⟨h1, h2, h3, h4⟩, hf⟩ := h
  unfold State.findMarker
  cases hr : List.find? s.markerAt (List.range' (st + rlHdrLen)
      (min (st + rlHdrLen + rlWindow) e - 1 - (st + rlHdrLen))) with
  | none =>
    exact absurd ((State.markerAt_iff s m).2 ⟨h3, h4⟩)
      (List.find?_eq_none.1 hr m ((mem_markerRange st e m).2 ⟨h1, h2⟩))
  | some p =>
    obtain ⟨hp, as, bs, hsplit, hbefore⟩ := List.find?_eq_some_iff_append.1 hr
    have hmem : p ∈ List.range' (st + rlHdrLen)
        (min (st + rlHdrLen + rlWindow) e - 1 - (st + rlHdrLen)) := List.mem_of_find?_eq_some hr
    obtain ⟨p1, p2⟩ := (mem_markerRange st e p).1 hmem
    obtain ⟨p3, p4⟩ := (State.markerAt_iff s p).1 hp
    have hle : ¬ p < m := fun hlt => hf p hlt ⟨p1, p2, p3, p4⟩
    have hge : ¬ m < p := by
      intro hlt
      have hm : m ∈ as ++ p :: bs := hsplit ▸ (mem_markerRange st e m).2 ⟨h1, h2⟩
      have hsorted : (as ++ p :: bs).Pairwise (· < ·) := hsplit ▸ List.pairwise_lt_range'
      rcases List.mem_append.1 hm with hm | hm
      · have := hbefore m hm
        rw [(State.markerAt_iff s m).2 ⟨h3, h4⟩] at this
        exact absurd this (by simp)
      · obtain ⟨_, hps, _⟩ := List.pairwise_append.1 hsorted
        rcases List.mem_cons.1 hm with hm | hm
        · omega
        · have := (List.pairwise_cons.1 hps).1 m hm
          omega
    rw [show p = m by omega]

/-- The marker search finds nothing exactly when the window holds no marker (R191). -/
theorem State.findMarker_eq_none_iff (s : State) (st e : Nat) :
    s.findMarker st e = none ↔ ∀ p, ¬ s.markerMatches st e p := by
  unfold State.findMarker State.markerMatches
  rw [List.find?_eq_none]
  constructor
  · rintro hn p ⟨h1, h2, h3⟩
    exact hn p ((mem_markerRange st e p).2 ⟨h1, h2⟩) ((State.markerAt_iff s p).2 h3)
  · intro hn p hp hm
    obtain ⟨h1, h2⟩ := (mem_markerRange st e p).1 hp
    exact hn p ⟨h1, h2, (State.markerAt_iff s p).1 hm⟩

end Sys2Proof.Machine
end

