-- ==== Sys2Proof/Laws/PerInstr.lean ====
section
/-!
SUPPORT. What holds of every command as syntax, one lemma for each constructor of `Instr`.
-/

namespace Sys2Proof.Laws.OpcodeByte

/-- A command is one byte (30_encoding.md R90), and a well-formed command's opcode is one of 0x0B to
0xFF exactly when the command is an illegal opcode (R91, R93). -/
def Statement (i : Instr) : Prop :=
  (encode i).length = 1 ∧
    (i.wellFormed = true → (0x0B ≤ (opcode i).toNat ↔ ∃ op, i = .illegal op))

theorem nop : Statement .nop := by simp [Statement, encode, opcode]
theorem gcrdec : Statement .gcrdec := by simp [Statement, encode, opcode]
theorem rdbit : Statement .rdbit := by simp [Statement, encode, opcode]
theorem rdbytes : Statement .rdbytes := by simp [Statement, encode, opcode]
theorem sync : Statement .sync := by simp [Statement, encode, opcode]
theorem rdsec : Statement .rdsec := by simp [Statement, encode, opcode]
theorem rlhdr : Statement .rlhdr := by simp [Statement, encode, opcode]
theorem rlfind : Statement .rlfind := by simp [Statement, encode, opcode]
theorem rlsweep : Statement .rlsweep := by simp [Statement, encode, opcode]
theorem rlpay : Statement .rlpay := by simp [Statement, encode, opcode]
theorem unscr : Statement .unscr := by simp [Statement, encode, opcode]
theorem illegal (op : Byte) : Statement (.illegal op) := by
  simp [Statement, encode, opcode, Instr.wellFormed]

end Sys2Proof.Laws.OpcodeByte
end

