-- ==== Sys2Proof/Laws/Rapidlok.lean ====
section
/-!
SUPPORT. What the literal scan, the table `T6` and the list of found slots deliver
(42_rapidlok_header.md R161, R165, R167).
-/

namespace Sys2Proof.Machine

/-- `T6` is injective (R161). -/
theorem t6_injective : ∀ a b : BitVec 4, t6 a = t6 b → a = b := by decide +kernel

/-- The bytes of a synthesised header (R163). -/
theorem synthesizeHeader_bytes (o : Config.PairOrder) (track sector : Byte) :
    let h := synthesizeHeader o track sector
    let g1 := pairWord o track sector
    let g2 := pairWord o (track ^^^ sector ^^^ 0x96#8) 0x96#8
    h[0] = 0x75#8 ∧ h[1] = g1.extractLsb' 16 8 ∧ h[2] = g1.extractLsb' 8 8 ∧
    h[3] = g1.extractLsb' 0 8 ∧ h[4] = g2.extractLsb' 16 8 ∧ h[5] = g2.extractLsb' 8 8 ∧
    h[6] = g2.extractLsb' 0 8 :=
  ⟨rfl, rfl, rfl, rfl, rfl, rfl, rfl⟩

/-- The three bytes of a 24-bit value, most significant first, give it back (R66). -/
theorem bytes_append (v : BitVec 24) :
    (v.extractLsb' 16 8 ++ v.extractLsb' 8 8 ++ v.extractLsb' 0 8 : BitVec 24) = v := by
  refine BitVec.eq_of_getLsbD_eq fun i hi => ?_
  simp only [BitVec.getLsbD_append, BitVec.getLsbD_extractLsb']
  split
  · simp [*]
  · split
    · simp only [decide_true, Bool.true_and, *]
      exact congrArg v.getLsbD (by omega)
    · rw [show decide (i - 8 - 8 < 8) = true by simp; omega, Bool.true_and]
      exact congrArg v.getLsbD (by omega)

/-- `T6[n]` as an entry of the table (R161). -/
theorem t6_eq (n : BitVec 4) : t6Table[n.toFin] = t6 n := rfl

/-- A track has at most 21 slots (R36, R160). -/
theorem sectorsPerTrack_le (t : Byte) : sectorsPerTrack t ≤ 20 := by
  unfold sectorsPerTrack
  repeat' split
  all_goals omega

/-- The comparison of the scan is the comparison of all seven bytes (R165). -/
theorem State.headerAt_iff (s : State) (h : Vector Byte 7) (p : Nat) :
    s.headerAt h p = true ↔ ∀ j : Fin 7, s.tbByte (p + j.val) = h[j] := by
  unfold State.headerAt
  rw [List.all_eq_true]
  exact ⟨fun ha j => by simpa using ha j (List.mem_finRange j), fun ha j _ => by simpa using ha j⟩

/-- The scan finds the first match (R165). -/
theorem State.findFirst_eq_some_iff (s : State) (h : Vector Byte 7) (p : Nat) :
    s.findFirst h = some p ↔ s.headerFirst h p := by
  unfold State.findFirst State.headerFirst State.headerMatches
  rw [List.find?_range_eq_some, List.mem_range, State.headerAt_iff]
  have hl : rlHdrLen - 1 = 6 := rfl
  rw [hl]
  constructor
  · rintro ⟨hm, hp, hq⟩
    refine ⟨⟨by omega, hm⟩, fun q hlt hmq => ?_⟩
    have := hq q hlt
    rw [Bool.not_eq_true', ← Bool.not_eq_true, State.headerAt_iff] at this
    exact this hmq.2
  · rintro ⟨⟨hp, hm⟩, hq⟩
    refine ⟨hm, by omega, fun q hlt => ?_⟩
    rw [Bool.not_eq_true', ← Bool.not_eq_true, State.headerAt_iff]
    exact fun hmq => hq q hlt ⟨by omega, hmq⟩

/-- The scan finds nothing exactly when there is no match (R165). -/
theorem State.findFirst_eq_none_iff (s : State) (h : Vector Byte 7) :
    s.findFirst h = none ↔ ∀ p, ¬ s.headerMatches h p := by
  unfold State.findFirst State.headerMatches
  rw [List.find?_eq_none]
  have hl : rlHdrLen - 1 = 6 := rfl
  rw [hl]
  constructor
  · rintro hn p ⟨hp, hm⟩
    exact hn p (List.mem_range.2 (by omega)) ((State.headerAt_iff s h p).2 hm)
  · intro hn p hp hm
    exact hn p ⟨by have := List.mem_range.1 hp; omega, (State.headerAt_iff s h p).1 hm⟩

/-- A found position leaves room for seven bytes of `TB` (R32). -/
theorem State.findFirst_bound {s : State} {h : Vector Byte 7} {p : Nat}
    (hf : s.findFirst h = some p) : p + 7 ≤ s.tblen.toNat :=
  ((State.findFirst_eq_some_iff s h p).1 hf).1.1

theorem posWord_some_toNat {p : Nat} (h : p ≤ 65535) : (posWord (some p)).toNat = p := by
  simp only [posWord, BitVec.toNat_ofNat]
  omega

theorem posWord_some_toInt {p : Nat} (h : p ≤ 65535) : (posWord (some p)).toInt = (p : Int) := by
  rw [BitVec.toInt_eq_toNat_cond, posWord_some_toNat h]
  simp
  omega

theorem posWord_none_toInt : (posWord none).toInt = -1 := by decide

/-- The position words of a scan are legal (R32, R44). -/
theorem posWord_legal {o : Option Nat} (h : ∀ p, o = some p → p + 7 ≤ 65535) :
    posLegal (posWord o) := by
  cases o with
  | none => exact .inl rfl
  | some p =>
    have := h p rfl
    refine .inr ?_
    rw [posWord_some_toNat (by omega)]
    omega

/-- What stands in the list of found slots: each slot of the track that was found, with its first
position (R167). -/
theorem State.mem_foundSlots (s : State) (p i : Nat) :
    (p, i) ∈ s.foundSlots ↔ s.slotPos i = some p := by
  unfold State.foundSlots
  rw [List.mem_insertionSort, List.mem_filterMap]
  constructor
  · rintro ⟨j, _, hj⟩
    obtain ⟨q, hq, he⟩ := Option.map_eq_some_iff.1 hj
    cases he
    exact hq
  · intro h
    refine ⟨i, List.mem_range.2 ?_, by simp [h]⟩
    unfold State.slotPos at h
    split at h
    · omega
    · exact absurd h (by simp)

/-- The found slots stand in ascending order of position (R167). -/
theorem State.foundSlots_sorted (s : State) :
    s.foundSlots.Pairwise (fun x y => x.1 ≤ y.1) :=
  List.pairwise_insertionSort _ _

/-- Every found slot stands once (R167). -/
theorem State.foundSlots_nodup (s : State) : (s.foundSlots.map Prod.snd).Nodup := by
  unfold State.foundSlots
  refine (((List.perm_insertionSort _ _).map _).nodup_iff).2 ?_
  rw [List.map_filterMap]
  have hsub : (List.range (sectorsPerTrack s.trk + 1)).filterMap
      (fun i => ((s.slotPos i).map (fun p => (p, i))).map Prod.snd) =
      (List.range (sectorsPerTrack s.trk + 1)).filter (fun i => (s.slotPos i).isSome) := by
    rw [← List.filterMap_eq_filter]
    refine List.filterMap_congr fun i _ => ?_
    cases h : s.slotPos i <;> simp [Option.guard, h]
  rw [hsub]
  exact List.nodup_range.filter _

/-- There are at most as many found slots as slots (R36). -/
theorem State.foundSlots_length_le (s : State) :
    s.foundSlots.length ≤ sectorsPerTrack s.trk + 1 := by
  unfold State.foundSlots
  rw [List.length_insertionSort]
  exact (List.length_filterMap_le _ _).trans (by simp)

end Sys2Proof.Machine
end

