-- ==== Sys2Proof/Tests/Slice0.lean ====
section
/-!
SUPPORT. Tests of the model: an ill-formed term for each check of WellFormed.lean, the opcode bytes of
30_encoding.md R91 written out, small steps whose results are those of 95_test_vectors.md, and for each
obligation with hypotheses a state and operands that meet them.
-/

open Sys2Proof Sys2Proof.Machine

namespace Sys2Proof.Tests

set_option Elab.async false

/-! ## Well-formedness: each check refuses an ill-formed term -/

theorem test_illegal_below_0x0B : (Instr.illegal 0x0A#8).wellFormed = false := by decide
theorem test_illegal_0x0B : (Instr.illegal 0x0B#8).wellFormed = true := by decide
theorem test_wre_readonly_space : (HostLine.wre .hdr 0 0#32).wellFormed = false := by decide
theorem test_wre_index : (HostLine.wre .wb 1024 0#32).wellFormed = false := by decide
theorem test_rde_index : (HostLine.rde .pt 21).wellFormed = false := by decide
theorem test_cmd_illegal : (HostLine.cmd (.illegal 0x0B#8)).wellFormed = false := by decide
theorem test_loadTrack_length :
    (HostLine.loadTrack (List.replicate 65536 0#8)).wellFormed = false := by
  rw [HostLine.wellFormed, List.length_replicate]
  decide
theorem test_loadWb_length :
    (HostLine.loadWb (List.replicate 1025 0#8)).wellFormed = false := by
  rw [HostLine.wellFormed, List.length_replicate]
  decide
theorem test_decodeBytes_length :
    (HostLine.decodeBytes (List.replicate 1025 0#8)).wellFormed = false := by
  rw [HostLine.wellFormed, List.length_replicate]
  decide
theorem test_pairOrder_first :
    (Config.PairOrder.mk .aHi .aLo .xHi .xLo).wellFormed = false := by decide
theorem test_pairOrder_permutation :
    (Config.PairOrder.mk .xHi .xHi .aHi .aLo).wellFormed = false := by decide
theorem test_params_table_injective :
    ({ specParams with gcrTable := gcrTable.set 3 0b01010#5 }).wellFormed = false := by
  decide +kernel
theorem test_params_table_pairs :
    ({ specParams with gcrTable := gcrTable.set 0 0b00000#5 }).wellFormed = false := by
  decide +kernel
theorem test_params_base : ({ specParams with gdbBase := 2 }).wellFormed = false := by
  decide +kernel
theorem test_spec_params : specParams.wellFormed = true := by decide +kernel

/-! ## Decoding: the opcode bytes of R91, bit by bit -/

theorem test_decode_nop : decodeTableWord 8 0b00000000 = some .nop := by decide
theorem test_decode_gcrdec : decodeTableWord 8 0b00000001 = some .gcrdec := by decide
theorem test_decode_rdbit : decodeTableWord 8 0b00000010 = some .rdbit := by decide
theorem test_decode_rdbytes : decodeTableWord 8 0b00000011 = some .rdbytes := by decide
theorem test_decode_sync : decodeTableWord 8 0b00000100 = some .sync := by decide
theorem test_decode_rdsec : decodeTableWord 8 0b00000101 = some .rdsec := by decide
theorem test_decode_rlhdr : decodeTableWord 8 0b00000110 = some .rlhdr := by decide
theorem test_decode_rlfind : decodeTableWord 8 0b00000111 = some .rlfind := by decide
theorem test_decode_rlsweep : decodeTableWord 8 0b00001000 = some .rlsweep := by decide
theorem test_decode_rlpay : decodeTableWord 8 0b00001001 = some .rlpay := by decide
theorem test_decode_unscr : decodeTableWord 8 0b00001010 = some .unscr := by decide
theorem test_decode_first_illegal :
    decodeTableWord 8 0b00001011 = some (.illegal 0x0B#8) := by decide
theorem test_decode_last_illegal :
    decodeTableWord 8 0b11111111 = some (.illegal 0xFF#8) := by decide
theorem test_decode_no_byte : decode [] = .error .noByte := by decide

/-! ## One step each, with the results of 95_test_vectors.md -/

/-- A state with a loaded track and the cursor at bit `cur`. -/
def track (bytes : List Byte) (cur : Nat) : State :=
  { State.reset with
    tb := Memory.writeRange 0 bytes [], tblen := BitVec.ofNat 16 bytes.length
    cur := BitVec.ofNat 19 cur }

/-- A state with a loaded work buffer. -/
def work (bytes : List Byte) : State :=
  { State.reset with
    wb := Memory.writeRange 0 bytes [], wlen := BitVec.ofNat 11 bytes.length }

/-- What `f` shows of the next state, if there is one. -/
def after {α : Type} (o : Host.Outcome State Fault Refusal) (f : State → α) : Option α :=
  match o with
  | .next t => some (f t)
  | .fault _ | .refused _ => none

/-- The refusal, if there is one. -/
def refusal (o : Host.Outcome State Fault Refusal) : Option Refusal :=
  match o with
  | .refused r => some r
  | .next _ | .fault _ => none

/-- K1. -/
theorem test_nop : after (exec .nop { track [0xFF#8, 0x80#8] 16 with status := 1#5 })
    (fun t => (t.status, t.cur)) = some (0x00#5, 16#19) := by decide +kernel
/-- K2, through the host's write. -/
theorem test_illegal : after (step (State.reset.withFetchWord 8 0x0B))
    (fun t => (t.status, t.cmd)) = some (0x07#5, 0x0B#8) := by decide +kernel
/-- K10: bits 31:8 of the word are ignored. -/
theorem test_step_ignores_high_bits :
    after (step { State.reset with pending := [.write 32 0 0x101#32] })
      (fun t => (t.status, t.cmd, t.olen)) = some (0x00#5, 0x01#8, 0#11) := by decide +kernel
/-- G9. -/
theorem test_gcrdec_bytes : after (exec .gcrdec (work [0x57#8, 0xFF#8, 0x37#8, 0x3E#8, 0xD7#8]))
    (fun t => (t.status, (List.range 4).map t.obByte, (List.range 2).map t.diagAt)) =
      some (0x10#5, [0xFF#8, 0xF3#8, 0x45#8, 0x67#8], [0x1F0001#22, 0x1F0002#22]) := by
  decide +kernel
/-- G12. -/
theorem test_gcrdec_length : after (exec .gcrdec (work [0x52#8, 0x54#8, 0xB5#8]))
    (fun t => (t.status, t.olen, t.nlen, t.diagcnt)) = some (0x03#5, 0#11, 0#12, 0#12) := by
  decide +kernel
/-- B1. -/
theorem test_rdbit : after (exec .rdbit (track [0xA0#8] 0))
    (fun t => (t.status, t.cur, t.bitv)) = some (0x00#5, 1#19, 1#1) := by decide +kernel
/-- B4. -/
theorem test_rdbit_end : after (exec .rdbit (track [0xA0#8] 8))
    (fun t => (t.status, t.cur, t.bitv)) = some (0x02#5, 8#19, 0#1) := by decide +kernel
/-- B6. -/
theorem test_rdbytes :
    after (exec .rdbytes { track [0xFF#8, 0xC0#8, 0x12#8, 0x34#8] 10 with cnt := 2#16 })
      (fun t => (t.status, t.cur, t.wlen, t.wbBytes 2)) =
      some (0x00#5, 26#19, 2#11, [0x00#8, 0x48#8]) := by decide +kernel
/-- B8. -/
theorem test_rdbytes_short :
    after (exec .rdbytes { track [0xFF#8, 0xC0#8, 0x12#8, 0x34#8] 17 with cnt := 2#16 })
      (fun t => (t.status, t.cur, t.wlen)) = some (0x02#5, 32#19, 0#11) := by decide +kernel
/-- B16. -/
theorem test_sync : after (exec .sync (track [0xFF#8, 0xA0#8, 0xFF#8, 0xE0#8] 0))
    (fun t => (t.status, t.cur)) = some (0x00#5, 27#19) := by decide +kernel
/-- B18. -/
theorem test_sync_fails : after (exec .sync (track [0xFF#8, 0xF0#8] 4))
    (fun t => (t.status, t.cur)) = some (0x01#5, 16#19) := by decide +kernel
/-- R271: `RDSEC` right after reset. -/
theorem test_rdsec_empty : after (exec .rdsec State.reset)
    (fun t => (t.status, t.cur)) = some (0x01#5, 0#19) := by decide +kernel
/-- The header of program P1, then the end of the track (R136). -/
theorem test_rdsec_header :
    after (exec .rdsec (track [0xFF#8, 0xFF#8, 0x52#8, 0x55#8, 0xA5#8, 0x4D#8, 0x72#8, 0x7D#8,
        0xDC#8, 0xD5#8, 0x55#8, 0x55#8] 0))
      (fun t => (t.status, t.cur, t.sh.toList)) =
      some (0x01#5, 96#19, [0x08#8, 0x0A#8, 0x03#8, 0x12#8, 0x57#8, 0x4C#8, 0x0F#8, 0x0F#8]) := by
  decide +kernel
/-- H4. -/
theorem test_rlhdr : after (exec .rlhdr { State.reset with trk := 18#8, sec := 19#8 })
    (fun t => t.hdr.toList) =
      some [0x75#8, 0x96#8, 0x79#8, 0x66#8, 0xD6#8, 0xED#8, 0x6F#8] := by decide +kernel
/-- The worked example of R164 under the order (`x` high, `a` high, `a` low, `x` low), by hand from
R161 to R163: 100100 100100 100101 100100 and 110101 110101 101111 101110. -/
theorem test_rlhdr_order :
    after (exec .rlhdr { State.reset with
        trk := 1#8, params := { specParams with pairOrder := ⟨.xHi, .aHi, .aLo, .xLo⟩ } })
      (fun t => t.hdr.toList) =
      some [0x75#8, 0x92#8, 0x49#8, 0x64#8, 0xD7#8, 0x5B#8, 0xEE#8] := by decide +kernel
/-- F4. -/
theorem test_rlfind :
    after (exec .rlfind { track [0x75#8, 0x92#8, 0x49#8, 0x25#8, 0xD6#8, 0xED#8, 0x6E#8, 0x75#8,
        0x92#8, 0x49#8, 0x25#8, 0xD6#8, 0xED#8, 0x6F#8] 0 with
        hdr := #v[0x75#8, 0x92#8, 0x49#8, 0x25#8, 0xD6#8, 0xED#8, 0x6F#8] })
      (fun t => (t.status, t.pos)) = some (0x00#5, 7#32) := by decide +kernel
/-- F6. -/
theorem test_rlfind_none :
    after (exec .rlfind { track [0x92#8, 0x49#8, 0x25#8, 0xD6#8, 0xED#8, 0x6F#8, 0x75#8] 0 with
        hdr := #v[0x75#8, 0x92#8, 0x49#8, 0x25#8, 0xD6#8, 0xED#8, 0x6F#8] })
      (fun t => (t.status, t.pos)) = some (0x04#5, 0xFFFFFFFF#32) := by decide +kernel
/-- The headers of track 5, sectors 7 and 2 (H11, H10), in that order. -/
def sweepTrack : State :=
  { track [0x75#8, 0x92#8, 0xF9#8, 0x2D#8, 0xD6#8, 0xED#8, 0x6C#8, 0x75#8, 0x92#8, 0x69#8, 0x2D#8,
      0xD6#8, 0xED#8, 0x65#8] 0 with trk := 5#8 }
/-- R167. -/
theorem test_rlsweep : after (exec .rlsweep sweepTrack)
    (fun t => (t.nslot, t.nfound, t.ordsec.toList.take 3,
      [t.pt[0], t.pt[2], t.pt[7], t.ordpos[0], t.ordpos[1], t.ordpos[2]])) =
      some (21#5, 2#5, [7#8, 2#8, 0xFF#8],
        [0xFFFFFFFF#32, 7#32, 0#32, 0#32, 7#32, 0xFFFFFFFF#32]) := by decide +kernel
/-- S5, the slot counts at the bounds of the zones. -/
theorem test_zones : [0, 17, 18, 24, 25, 30, 31, 255].map
    (fun n => sectorsPerTrack (BitVec.ofNat 8 n)) = [20, 20, 18, 18, 17, 17, 16, 16] := by
  decide
/-- M6. -/
theorem test_rlpay :
    after (exec .rlpay { track ([0x75#8, 0x92#8, 0x49#8, 0x2D#8, 0xD6#8, 0xED#8, 0x67#8, 0x55#8,
        0x55#8, 0x55#8, 0x55#8, 0xFF#8, 0x6B#8, 0x92#8, 0x49#8, 0x25#8, 0x92#8, 0x49#8, 0x25#8,
        0x92#8, 0x49#8, 0x25#8]) 0 with spanEnd := 18#16 })
      (fun t => (t.status, t.rawlen, t.olen, (List.range 2).map t.obByte)) =
      some (0x00#5, 2#11, 0#11, [0xFF#8, 0xFE#8]) := by decide +kernel
/-- M5. -/
theorem test_rlpay_cut :
    after (exec .rlpay { track ([0x75#8, 0x92#8, 0x49#8, 0x2D#8, 0xD6#8, 0xED#8, 0x67#8, 0x55#8,
        0x55#8, 0x55#8, 0x55#8, 0xFF#8, 0x6B#8]) 0 with spanEnd := 12#16 })
      (fun t => (t.status, t.rawlen, t.olen)) = some (0x05#5, 0#11, 0#11) := by decide +kernel
/-- X4, X9. -/
theorem test_unscr : after (exec .unscr (work [0x12#8, 0x34#8, 0x56#8, 0x78#8]))
    (fun t => (t.status, t.rawlen, t.olen, (List.range 2).map t.obByte)) =
      some (0x00#5, 2#11, 0#11, [0xFC#8, 0x65#8]) := by decide +kernel
/-- X13. -/
theorem test_unscr_trailer :
    after (exec .unscr (work [0x92#8, 0x49#8, 0x25#8, 0x92#8, 0x49#8, 0x25#8, 0x92#8, 0x49#8,
        0x25#8]))
      (fun t => (t.rawlen, t.olen)) = some (6#11, 2#11) := by decide +kernel
/-- K4. -/
theorem test_write_cur_clamped :
    after (step { track [0xFF#8, 0x80#8] 0 with pending := [.write 32 0x0C 100#32] })
      (fun t => t.cur) = some 16#19 := by decide +kernel
/-- K7. -/
theorem test_write_wlen_clamped :
    after (step { State.reset with pending := [.write 32 0x1C 5000#32] })
      (fun t => t.wlen) = some 1024#11 := by decide +kernel
/-- R63: the first unmapped word after the registers. -/
theorem test_unmapped : refusal (step { State.reset with pending := [.read 32 0x48] }) =
    some (.unmappedAddress 0x48) := by decide +kernel

/-- R222: element 1024 of `WB` does not exist, though 0x2000 is the address of `OB[0]`; element 1023
does. -/
theorem test_element_outside :
    refusal (step (State.powerOn specParams (lineEvents specParams (.rde .wb 1024)))) =
      some (.unmappedElement .wb 1024) ∧
    refusal (step (State.powerOn specParams (lineEvents specParams (.rde .wb 1023)))) = none := by
  decide +kernel
/-- R222: neither does element 7 of `HDR`, one word after the last. -/
theorem test_element_outside_write :
    refusal (step (State.powerOn specParams (lineEvents specParams (.wre .hdr 7 0#32)))) =
      some (.unmappedElement .hdr 7) := by decide +kernel
/-- R137, R160: the slots of the track pass at the bounds of the zones, and `LOADTRACK` before
them. -/
theorem test_track_slots :
    [17, 18, 25, 31].map (fun n => trackSlots (BitVec.ofNat 8 n)) = [21, 19, 18, 17] ∧
    (trackPassLines 31#8 [0xFF#8]).length = 18 := by decide

/-! ## Witnesses: a state and operands that meet an obligation's hypotheses -/

/-- A command word at the head of the events of a state after power-on. -/
def commandState : State := State.powerOn specParams [.write 32 0 0xFFFFFF04#32]

theorem witness_ExternalResetRestoresResetState :
    ({ track [0xFF#8] 3 with pending := [.reset] }).pending = .reset :: [] := rfl
theorem witness_PowerOnSatisfiesInvariant : specParams.wellFormed = true := by decide +kernel
theorem witness_PowerOnSatisfiesInvariant_other :
    ({ specParams with pairOrder := ⟨.xHi, .aLo, .aHi, .xLo⟩, gdbBase := 4 }).wellFormed =
      true := by decide +kernel
/-- A state between commands, with a track, a cursor at `LIMIT` and a command to come. -/
theorem witness_StepKeepsInvariant :
    ({ track [0xFF#8, 0x80#8] 16 with pending := [.write 32 0 0x04#32] }).Inv ∧
      (after (step { track [0xFF#8, 0x80#8] 16 with pending := [.write 32 0 0x04#32] })
        (fun t => t.status)) = some 0x01#5 := by
  refine ⟨⟨?_, ?_, ?_, ?_, ?_, ?_, ?_, ?_, ?_, ?_, .inl rfl, fun i => .inl ?_, fun i => .inl ?_,
    ?_, ?_, ?_, ?_, ?_, ?_, ?_, ?_, ?_, ?_, ?_⟩, ?_⟩
  all_goals first | (revert i; decide +kernel) | decide +kernel
theorem witness_ReachableStatesSatisfyInvariant : Reachable commandState :=
  .powerOn specParams _ witness_PowerOnSatisfiesInvariant
theorem witness_StepKeepsParameters : ∃ t, step commandState = .next t := ⟨_, rfl⟩
theorem witness_StepRunsDecodedCommand :
    commandState.params.gdbBase % 4 = 0 ∧
    commandState.pending = .write 32 commandState.params.gdbBase 0xFFFFFF04#32 :: [] ∧
    decode [(0xFFFFFF04#32).extractLsb' 0 8] = .ok (.sync, []) := by decide
theorem witness_DecodeEncodeAgree :
    (Instr.illegal 0x0B#8).wellFormed = true ∧ (Instr.illegal 0xFF#8).wellFormed = true ∧
    Instr.unscr.wellFormed = true := by decide
theorem witness_IllegalOpcodeReportsBadCommand :
    (let s := State.powerOn specParams [.write 32 0 0x0B#32]
     s.params.gdbBase % 4 = 0 ∧ s.pending = .write 32 s.params.gdbBase 0x0B#32 :: []) ∧
    0x0B ≤ ((0x0B#32).extractLsb' 0 8).toNat ∧ 0x0B ≤ ((0xFF#32).extractLsb' 0 8).toNat := by
  decide
theorem witness_CommandsWriteOnlyTheirPlaces (i : Instr) : ∃ t, exec i State.reset = .next t := by
  cases i <;> exact ⟨_, rfl⟩
theorem witness_DecodeFaultFlagRule :
    after (exec .gcrdec (work [0#8, 0#8, 0#8, 0#8, 0#8])) (fun t => t.diagcnt) = some 8#12 := by
  decide +kernel
theorem witness_CommandsEndWithTheirCodes :
    after (exec (.illegal 0xFF#8) State.reset) (fun t => t.status) = some 0x07#5 := by
  decide +kernel
/-- Two states that differ only beyond the valid track and in `OB`; `RLPAY` does not end with
`E_RANGE` there. -/
theorem witness_CommandsReadOnlyValidData (i : Instr) :
    let s := track [0xA0#8] 0
    let s' := { s with tb := [(0, 0xA0#8), (1, 0x5A#8)], ob := [(0, 1#8)], ramEpoch := 1 }
    agreeOnValid s s' ∧ s ≠ s' ∧ (∃ t t', exec i s = .next t ∧ exec i s' = .next t') ∧
      after (exec .rlpay s) (fun t => t.code) = some (codeBits .eNoMark) := by
  refine ⟨⟨rfl, ?_, ?_⟩, by decide +kernel, by cases i <;> exact ⟨_, _, rfl, rfl⟩, ?_⟩
  all_goals decide +kernel
theorem witness_GcrdecDecodesWholeGroups :
    ((work []).wlen.toNat % 5 = 0 ∧ (work []).params.gcrTable.toList.Nodup) ∧
    ({ State.reset with wlen := 1020#11 }).wlen.toNat % 5 = 0 := by decide +kernel
theorem witness_GcrdecRejectsBadLength :
    (work [0x52#8]).wlen.toNat % 5 ≠ 0 ∧
    ({ State.reset with wlen := 1024#11 }).wlen.toNat % 5 ≠ 0 := by decide +kernel
/-- G3: the bytes 89 AB CD EF and their GCR group. -/
theorem witness_GcrdecInvertsEncoding :
    let s := work [0x4E#8, 0x75#8, 0xB6#8, 0xF7#8, 0xD5#8]
    let plain := [0x89#8, 0xAB#8, 0xCD#8, 0xEF#8]
    plain.length % 4 = 0 ∧ plain.length ≤ 816 ∧ s.params.gcrTable.toList.Nodup ∧
    s.wlen.toNat = (gcrEncode s.params.gcrTable plain).length ∧
    ∀ i, i < s.wlen.toNat → (gcrEncode s.params.gcrTable plain)[i]? = some (s.wbByte i) := by
  decide +kernel
theorem witness_InvalidCodewordNeverAborts :
    (work [0#8, 0#8, 0#8, 0#8, 0#8]).wlen.toNat % 5 = 0 ∧
    ∃ t, exec .gcrdec (work [0#8, 0#8, 0#8, 0#8, 0#8]) = .next t := ⟨by decide, _, rfl⟩
theorem witness_RdbitReadsOneBit :
    (track [0xA0#8] 7).cur.toNat < 8 * (track [0xA0#8] 7).tblen.toNat ∧
    8 * (track [0xA0#8] 8).tblen.toNat ≤ (track [0xA0#8] 8).cur.toNat := by decide +kernel
theorem witness_RdbytesDeliversStreamBytes :
    (let s := { State.reset with tblen := 1024#16, cnt := 1024#16 }
     s.cnt.toNat ≤ 1024 ∧ s.cur.toNat + 8 * s.cnt.toNat ≤ 8 * s.tblen.toNat) ∧
    (let s := { track [0xFF#8] 8 with cnt := 0#16 }
     s.cnt.toNat ≤ 1024 ∧ s.cur.toNat + 8 * s.cnt.toNat ≤ 8 * s.tblen.toNat) := by
  decide +kernel
theorem witness_RdbytesFailures :
    (let s := { State.reset with cnt := 1025#16 }
     s.cur.toNat ≤ 8 * s.tblen.toNat ∧ 1024 < s.cnt.toNat) ∧
    (let s := { State.reset with tblen := 1023#16, cnt := 1024#16 }
     s.cur.toNat ≤ 8 * s.tblen.toNat ∧ s.cnt.toNat ≤ 1024 ∧
     8 * s.tblen.toNat < s.cur.toNat + 8 * s.cnt.toNat) := by decide +kernel

/-- A 0-bit at `c + 10` after ten 1-bits from `c` on is the first sync boundary. -/
theorem firstSync_of_ten {s : State} {c : Nat} (hl : c + 10 < s.limit)
    (h0 : s.tbBit (c + 10) = false) (h1 : ∀ j, j < 10 → s.tbBit (c + j) = true) :
    s.firstSync c (c + 10) := by
  refine ⟨⟨Nat.le_refl _, hl, h0, fun j hj hk => ?_⟩, fun k hk h => by have := h.1; omega⟩
  have := h1 (j - c) (by omega)
  rwa [show c + (j - c) = j by omega] at this

theorem witness_SyncRestsOnFirstBoundary :
    (track [0xFF#8, 0xC0#8] 0).firstSync (track [0xFF#8, 0xC0#8] 0).cur.toNat 10 :=
  firstSync_of_ten (c := 0) (by decide +kernel) (by decide +kernel) (by decide +kernel)
/-- Nine bits of track hold no sync boundary. -/
theorem noSync_of_short {s : State} {c : Nat} (h : s.limit ≤ c + 10) : s.noSync c := by
  intro k hk
  have := hk.1
  have := hk.2.1
  omega
theorem witness_SyncFailsWithoutBoundary :
    let s := track [0xFF#8, 0x80#8] 6
    s.cur.toNat ≤ 8 * s.tblen.toNat ∧ s.noSync s.cur.toNat :=
  ⟨by decide +kernel, noSync_of_short (by decide +kernel)⟩
theorem witness_SyncBoundaryProperty :
    (let s := track [0xFF#8, 0xC0#8] 0
     (∀ j, j < 10 → s.tbBit (s.cur.toNat + j) = true) ∧ s.tbBit (s.cur.toNat + 10) = false ∧
     s.cur.toNat + 10 < 8 * s.tblen.toNat) ∧
    let s := track [0xFF#8, 0x80#8] 0
    ∀ p, s.cur.toNat ≤ p → p + 10 ≤ 8 * s.tblen.toNat → ∃ j, j < 10 ∧ s.tbBit (p + j) = false := by
  refine ⟨by decide +kernel, ?_⟩
  intro s p _ hp
  have hp' : p < 7 := by
    have : s.tblen.toNat = 2 := by decide
    omega
  refine ⟨9 - p, by omega, ?_⟩
  rw [show p + (9 - p) = 9 by omega]
  decide +kernel

/-- Two 1-bytes, ten header bytes, two 1-bytes and the first data byte. -/
def sectorBytes : List Byte :=
  [0xFF#8, 0xFF#8, 0x52#8, 0x55#8, 0xA5#8, 0x4D#8, 0x72#8, 0x7D#8, 0xDC#8, 0xD5#8, 0x55#8, 0x55#8,
   0xFF#8, 0xFF#8, 0x52#8]
/-- A track of `n` bytes with those bytes at its start and the cursor at bit 6. -/
def sectorTrack (n : Nat) : State := { track sectorBytes 6 with tblen := BitVec.ofNat 16 n }
/-- The last byte of a run of ten 1-bits that starts at `c` ends at the boundary `c + 10`, whatever
1-bits stand before it. -/
theorem firstSync_of_ones {s : State} {c k : Nat} (hk : c + 10 ≤ k) (hl : k < s.limit)
    (h0 : s.tbBit k = false) (h1 : ∀ j, j < k - c → s.tbBit (c + j) = true) :
    s.firstSync c k := by
  refine ⟨⟨hk, hl, h0, fun j hj hlt => ?_⟩, fun q hq h => ?_⟩
  · have := h1 (j - c) (by omega)
    rwa [show c + (j - c) = j by omega] at this
  · have hc := h.1
    have := h1 (q - c) (by omega)
    rw [show c + (q - c) = q by omega, h.2.2.1] at this
    exact absurd this (by decide)
/-- The last read ends exactly at `LIMIT`. -/
theorem witness_RdsecReadsOneSector :
    let s := sectorTrack 339
    s.params.gcrTable.toList.Nodup ∧ s.firstSync s.cur.toNat 16 ∧ 16 + 80 ≤ s.limit ∧
    s.firstSync (16 + 80) 112 ∧ 112 + 2600 ≤ s.limit :=
  ⟨by decide +kernel,
   firstSync_of_ones (c := 6) (by decide) (by decide +kernel) (by decide +kernel)
     (by decide +kernel),
   by decide +kernel,
   firstSync_of_ones (by decide) (by decide +kernel) (by decide +kernel) (by decide +kernel),
   by decide +kernel⟩
theorem witness_RdsecFailsBeforeHeader :
    (State.reset.cur.toNat ≤ 8 * State.reset.tblen.toNat ∧
      State.reset.noSync State.reset.cur.toNat) ∧
    let s := sectorTrack 11
    s.cur.toNat ≤ 8 * s.tblen.toNat ∧ s.firstSync s.cur.toNat 16 ∧ 8 * s.tblen.toNat < 16 + 80 :=
  ⟨⟨by decide, noSync_of_short (by decide)⟩, by decide +kernel,
   firstSync_of_ones (c := 6) (by decide) (by decide +kernel) (by decide +kernel)
     (by decide +kernel),
   by decide +kernel⟩
/-- The header read ends exactly at `LIMIT`, and the data read lacks one byte. -/
theorem witness_RdsecFailsAfterHeader :
    (let s := sectorTrack 12
     s.params.gcrTable.toList.Nodup ∧ s.firstSync s.cur.toNat 16 ∧ 16 + 80 ≤ s.limit ∧
     s.noSync (16 + 80)) ∧
    let s := sectorTrack 338
    s.firstSync s.cur.toNat 16 ∧ 16 + 80 ≤ s.limit ∧
    ∃ k2, s.firstSync (16 + 80) k2 ∧ s.limit < k2 + 2600 :=
  ⟨⟨by decide +kernel,
    firstSync_of_ones (c := 6) (by decide) (by decide +kernel) (by decide +kernel)
      (by decide +kernel),
    by decide +kernel, noSync_of_short (by decide +kernel)⟩,
   firstSync_of_ones (c := 6) (by decide) (by decide +kernel) (by decide +kernel)
     (by decide +kernel),
   by decide +kernel, 112,
   firstSync_of_ones (by decide) (by decide +kernel) (by decide +kernel) (by decide +kernel),
   by decide +kernel⟩
theorem witness_CursorStaysExhausted :
    (State.reset.cur.toNat ≤ State.reset.limit ∧
      after (exec .sync State.reset) (fun t => t.code) = some (codeBits .eSync) ∧
      after (exec .rdbit State.reset) (fun t => t.code) = some (codeBits .eShort)) ∧
    (let s := { track [0xFF#8] 8 with cnt := 1#16 }
     s.cur.toNat = s.limit ∧ 0 < s.cnt.toNat ∧ s.cnt.toNat ≤ 1024) ∧
    (let s := { track [0xFF#8] 8 with cnt := 1025#16 }
     s.cur.toNat = s.limit ∧ 0 < s.cnt.toNat) := by decide +kernel
theorem witness_TrackPassAfterFailureIsAbsent :
    State.reset.cur.toNat ≤ State.reset.limit ∧
    ∃ t, exec .rdsec State.reset = .next t ∧ t.code ≠ codeBits .ok :=
  ⟨by decide, _, rfl, by decide +kernel⟩
/-- The premise of the second clause. -/
theorem witness_RlhdrSynthesizesHeader : State.reset.params.pairOrder = pairOrder := rfl
theorem witness_HeadersOfATrackAreDistinct :
    pairOrder.wellFormed = true ∧
    (Config.PairOrder.mk .xHi .aHi .xLo .aLo).wellFormed = true := by decide
/-- A header at the only position of a track of seven bytes, and a track of six bytes. -/
theorem witness_RlfindReportsFirstMatch :
    (let s := track (List.replicate 7 0#8) 0
     s.headerFirst s.hdr 0) ∧
    let s := track (List.replicate 6 0#8) 0
    ∀ p, ¬ s.headerMatches s.hdr p := by
  refine ⟨⟨⟨by decide +kernel, by decide +kernel⟩, fun q hq => by omega⟩, fun p hp => ?_⟩
  have h7 : p + 7 ≤ 6 := hp.1
  omega
theorem witness_RlsweepFindsEverySlot :
    (let s := sweepTrack
     s.headerFirst (synthesizeHeader s.params.pairOrder s.trk (BitVec.ofNat 8 7)) 0) ∧
    ∀ p, ¬ State.reset.headerMatches
      (synthesizeHeader State.reset.params.pairOrder State.reset.trk (BitVec.ofNat 8 20)) p := by
  refine ⟨⟨⟨by decide +kernel, by decide +kernel⟩, fun q hq => by omega⟩, fun p hp => ?_⟩
  have h7 : p + 7 ≤ 0 := hp.1
  omega
theorem witness_RlsweepSortsFoundSlots :
    State.reset.params.pairOrder.wellFormed = true := by decide
/-- Both spans of a track with two found slots, the last one ending at `TBLEN`. -/
theorem witness_SweptSpansAreLegal :
    sweepTrack.params.pairOrder.wellFormed = true ∧
    after (exec .rlsweep sweepTrack) (fun t => [t.span 0, t.span 1]) =
      some [(7#8, 0, 7), (2#8, 7, 14)] ∧
    after (exec .rlsweep sweepTrack) (fun t => t.nfound.toNat) = some 2 := by decide +kernel
theorem witness_TripleKeepsSixteenBits :
    (0xFFFFFF#24 &&& 0x6DB6DB#24) = (0x6DB6DB#24 &&& 0x6DB6DB#24) := by decide

/-- A track of `n` zero bytes, then a marker, swept as the span of all of it. -/
def markerTrack (n : Nat) : State :=
  { track (List.replicate n 0#8 ++ [0xFF#8, 0x6B#8]) 0 with spanEnd := BitVec.ofNat 16 (n + 2) }
/-- The marker at the last position of the window, and right after the header. -/
theorem witness_RlpayUnscramblesSpan :
    (let s := markerTrack 37
     s.spanStart.toNat ≤ s.spanEnd.toNat ∧ s.spanEnd.toNat ≤ s.tblen.toNat ∧
     s.markerFirst s.spanStart.toNat s.spanEnd.toNat 37) ∧
    let s := markerTrack 7
    s.markerFirst s.spanStart.toNat s.spanEnd.toNat 7 := by
  have h37 : ∀ q, q < 37 → (markerTrack 37).tbByte q ≠ 0xFF#8 := by decide +kernel
  refine ⟨⟨by decide, by decide, ⟨by decide, by decide, by decide +kernel, by decide +kernel⟩,
    fun q hq h => h37 q hq h.2.2.1⟩,
    ⟨by decide, by decide, by decide +kernel, by decide +kernel⟩, fun q hq h => ?_⟩
  have h7 : 0 + 7 ≤ q := h.1
  omega
theorem witness_RlpayFailures :
    (let s := { State.reset with spanStart := 1#16 }
     s.spanEnd.toNat < s.spanStart.toNat) ∧
    (let s := { track [0#8] 0 with spanEnd := 2#16 }
     s.tblen.toNat < s.spanEnd.toNat) ∧
    (let s := { track (List.replicate 8 0#8) 0 with spanEnd := 8#16 }
     s.spanStart.toNat ≤ s.spanEnd.toNat ∧ s.spanEnd.toNat ≤ s.tblen.toNat ∧
     ∀ p, ¬ s.markerMatches s.spanStart.toNat s.spanEnd.toNat p) := by
  refine ⟨by decide, by decide, by decide, by decide, fun p hp => ?_⟩
  have h1 : 0 + 7 ≤ p := hp.1
  have h2 : p + 2 ≤ min (0 + 39) 8 := hp.2.1
  omega
/-- A payload command with `OK`, a decode of the longest input, and a match. -/
theorem witness_ResultBoundsAfterCommands :
    (∃ t, exec .unscr (work []) = .next t) ∧
    after (exec .rlpay (markerTrack 7)) (fun t => t.code) = some (codeBits .ok) ∧
    (let s := { State.reset with wlen := 1020#11 }
     s.wlen.toNat ≤ 1024 ∧ ∃ t, exec .gcrdec s = .next t) ∧
    (∃ t, exec .rdsec State.reset = .next t) ∧ ∃ t, exec .rlfind State.reset = .next t :=
  ⟨⟨_, rfl⟩, by decide +kernel, ⟨by decide, _, rfl⟩, ⟨_, rfl⟩, _, rfl⟩
/-- The marker one position beyond the window. -/
theorem witness_LateMarkerIsNotFound :
    let s := markerTrack 38
    s.spanStart.toNat ≤ s.spanEnd.toNat ∧ s.spanEnd.toNat ≤ s.tblen.toNat ∧
    (∀ p, s.spanStart.toNat + 7 ≤ p → p ≤ s.spanStart.toNat + 37 →
      s.tbByte p ≠ 0xFF#8 ∨ s.tbByte (p + 1) ≠ 0x6B#8) ∧
    ∃ t, exec .rlpay s = .next t := by
  have h38 : ∀ q, q < 38 → (markerTrack 38).tbByte q ≠ 0xFF#8 := by decide +kernel
  refine ⟨by decide, by decide, fun p _ hp => .inl (h38 p ?_), _, rfl⟩
  have : p ≤ 0 + 37 := hp
  omega

/-- The first and the last register, and the last element of every space. -/
theorem witness_HostReadAnswersAndChangesNothing :
    State.reset.params.gdbBase % 4 = 0 ∧
    ∀ off ∈ [0x00, 0x44, 0x00100 + 4 * 6, 0x00140 + 4 * 7, 0x00200 + 4 * 20, 0x00300 + 4 * 20,
        0x00380 + 4 * 20, 0x01000 + 4 * 1023, 0x02000 + 4 * 1023, 0x04000 + 4 * 2047,
        0x06000 + 4 * 2047, 0x40000 + 4 * 65534],
      let s := { State.reset with pending := [.read 32 off] }
      s.pending = .read 32 (s.params.gdbBase + off) :: [] ∧ refusal (step s) = none := by
  decide +kernel
theorem witness_HostRegisterWrites (r : Reg) :
    let s := { State.reset with pending := [.write 32 (regOffset r) 5000#32] }
    s.params.gdbBase % 4 = 0 ∧
    s.pending = .write 32 (s.params.gdbBase + regOffset r) 5000#32 :: [] ∧
    Reg.tblen ≠ .cmd ∧ Reg.status ≠ .cmd := by cases r <;> decide
/-- The last elements of `WB` and `TB`, and the last of a space that ignores the write. -/
theorem witness_HostElementWrites :
    (let s := { State.reset with pending := [.write 32 0x1FFC 7#32] }
     s.params.gdbBase % 4 = 0 ∧ 1023 < spaceCount .wb ∧
     s.pending = .write 32 (s.params.gdbBase + spaceBase .wb + 4 * 1023) 7#32 :: []) ∧
    (let s := { State.reset with pending := [.write 32 0x7FFF8 7#32] }
     65534 < spaceCount .tb ∧
     s.pending = .write 32 (s.params.gdbBase + spaceBase .tb + 4 * 65534) 7#32 :: []) ∧
    (let s := { State.reset with pending := [.write 32 0x7FFC 7#32] }
     2047 < spaceCount .diag ∧
     s.pending = .write 32 (s.params.gdbBase + spaceBase .diag + 4 * 2047) 7#32 :: []) := by
  decide +kernel
/-- Refused and answered accesses at the end of the registers, and an access to no element. -/
theorem witness_OnlyUnmappedAccessesAreRefused :
    State.reset.params.gdbBase % 4 = 0 ∧
    refusal (step { State.reset with pending := [.read 32 0x48] }) ≠ none ∧
    refusal (step { State.reset with pending := [.read 32 0x42] }) ≠ none ∧
    refusal (step { State.reset with pending := [.read 8 0x44] }) ≠ none ∧
    refusal (step { State.reset with pending := [.outside .pt 21] }) ≠ none ∧
    refusal (step { State.reset with pending := [.read 32 0x44] }) = none := by decide +kernel
theorem witness_LoadtrackLoadsTheTrack :
    (let s := State.powerOn specParams (lineEvents specParams (.loadTrack [0xFF#8, 0xC0#8]))
     s.params.gdbBase % 4 = 0 ∧ [0xFF#8, 0xC0#8].length ≤ 65535 ∧
     s.pending = lineEvents s.params (.loadTrack [0xFF#8, 0xC0#8]) ++ []) ∧
    (let s := State.powerOn specParams [.write 32 0x08 0#32]
     s.pending = lineEvents s.params (.loadTrack []) ++ []) := by decide +kernel
/-- Both lines on both sides of the last element of `TB`. -/
theorem witness_OutOfRangeElementsAreRefused (i : Nat) :
    (let s := State.powerOn specParams (lineEvents specParams (.rde .tb i))
     s.params.gdbBase % 4 = 0 ∧ s.pending = lineEvents s.params (.rde .tb i) ++ []) ∧
    (let s := State.powerOn specParams (lineEvents specParams (.wre .tb i 1#32))
     s.pending = lineEvents s.params (.wre .tb i 1#32) ++ []) ∧
    spaceCount .tb ≤ 65535 ∧ 65534 < spaceCount .tb :=
  ⟨⟨rfl, (List.append_nil _).symm⟩, (List.append_nil _).symm, by decide, by decide⟩
/-- The shortest track, in the zone of the fewest slots, and a track of one byte in the next. -/
theorem witness_StandardTrackPassRunsOnTheBlock :
    (let s := State.powerOn specParams (programEvents specParams (trackPassLines 31#8 []))
     s.params.gdbBase % 4 = 0 ∧
     s.pending = programEvents s.params (trackPassLines 31#8 []) ++ []) ∧
    [0xFF#8].length ≤ 65535 ∧
    (let s := State.powerOn specParams (programEvents specParams (trackPassLines 30#8 [0xFF#8]))
     s.pending = programEvents s.params (trackPassLines 30#8 [0xFF#8]) ++ []) :=
  ⟨⟨rfl, (List.append_nil _).symm⟩, by decide, (List.append_nil _).symm⟩

end Sys2Proof.Tests
end

namespace Sys2Proof.Machine

/-! ## What a command and a step can do (30_encoding.md R91; 10_state.md R20; 20_memory.md R62) -/

/-- The state a command ends in (R91, R247). -/
def commandEnd : Instr → State → State
  | .nop, s => s.endCommand .ok false
  | .gcrdec, s => gcrdec s
  | .rdbit, s => rdbit s
  | .rdbytes, s => rdbytes s
  | .sync, s => sync s
  | .rdsec, s => rdsec s
  | .rlhdr, s => rlhdr s
  | .rlfind, s => rlfind s
  | .rlsweep, s => rlsweep s
  | .rlpay, s => rlpay s
  | .unscr, s => unscr s
  | .illegal _, s => s.endCommand .eBadCmd false

/-- Every command answers the state it ends in (R247). -/
theorem exec_eq_commandEnd (i : Instr) (s : State) : exec i s = .next (commandEnd i s) := by
  cases i <;> rfl

theorem exec_eq_next_iff {i : Instr} {s t : State} :
    exec i s = .next t ↔ commandEnd i s = t := by
  rw [exec_eq_commandEnd, Host.Outcome.next.injEq]

/-- Everything a step that has a next state can do, by the next host event (R20, R62, R270,
R271). -/
inductive StepResult (s : State) : State → Prop
  | idle (hp : s.pending = []) : StepResult s s
  | reset {rest : List HostEvent} (hp : s.pending = .reset :: rest) :
      StepResult s ({ s with pending := rest }).externalReset
  | read {width addr : Nat} {rest : List HostEvent} {target : Target}
      (hp : s.pending = .read width addr :: rest)
      (hr : resolve s.params width addr = .ok target) :
      StepResult s { s with pending := rest, replies := s.readTarget target :: s.replies }
  | write {width addr : Nat} {v : Word} {rest : List HostEvent} {target : Target}
      (hp : s.pending = .write width addr v :: rest)
      (hr : resolve s.params width addr = .ok target) (hne : target ≠ .reg .cmd) :
      StepResult s (({ s with pending := rest }).writeTarget v target)
  | command {width addr : Nat} {v : Word} {rest : List HostEvent}
      (hp : s.pending = .write width addr v :: rest)
      (hr : resolve s.params width addr = .ok (.reg .cmd)) :
      StepResult s (commandEnd (decodeOp (v.setWidth 8))
        (({ s with pending := rest }).writeReg v .cmd))

/-- A write whose target is `CMD` runs the command its low byte decodes to (R23, R90). -/
theorem step_of_write_cmd {s : State} {width addr : Nat} {v : Word} {rest : List HostEvent}
    (hp : s.pending = .write width addr v :: rest)
    (hr : resolve s.params width addr = .ok (.reg .cmd)) :
    step s = exec (decodeOp (v.setWidth 8)) (({ s with pending := rest }).writeReg v .cmd) := by
  simp [step, nextAction, hp, hr]

theorem stepResult_of_step {s t : State} (h : step s = .next t) : StepResult s t := by
  unfold step nextAction at h
  cases hp : s.pending with
  | nil =>
    simp only [hp] at h
    cases h
    exact .idle hp
  | cons event rest =>
    cases event with
    | outside sp i => simp [hp] at h
    | reset =>
      simp only [hp] at h
      cases h
      exact .reset hp
    | read width addr =>
      cases hr : resolve s.params width addr with
      | error r => simp [hp, hr] at h
      | ok target =>
        simp only [hp, hr] at h
        cases h
        exact .read hp hr
    | write width addr v =>
      cases hr : resolve s.params width addr with
      | error r => simp [hp, hr] at h
      | ok target =>
        by_cases hc : target = .reg .cmd
        · subst hc
          simp only [hp, hr] at h
          rw [exec_eq_next_iff] at h
          exact h ▸ .command hp hr
        · simp only [hp, hr] at h
          cases h
          exact .write hp hr hc

/-- An access reaches an element only where its space has one (R61, R63). -/
theorem lt_spaceCount_of_resolve {p : Config.Params} {width addr : Nat} {sp : Space} {i : Nat}
    (h : resolve p width addr = .ok (.elem sp i)) : i < spaceCount sp := by
  have ht : targetAt (addr - p.gdbBase) = some (.elem sp i) := by
    unfold resolve at h
    repeat' split at h
    all_goals simp_all
  unfold targetAt at ht
  split at ht
  · simp at ht
  · obtain ⟨sp', _, he⟩ := List.exists_of_findSome?_eq_some ht
    unfold elemAt at he
    split at he
    · simp only [Option.some.injEq, Target.elem.injEq] at he
      obtain ⟨rfl, rfl⟩ := he
      omega
    · simp at he

end Sys2Proof.Machine

namespace Sys2Proof.Machine

/-! ## Invariant and updates (10_state.md R49) -/

/-- The state satisfies the invariant apart from its two clauses about `STATUS`: what holds between
the updates of a command, before its end writes `STATUS` (R49, R240). -/
abbrev State.Sound (s : State) : Prop := (s.endCommand .ok false).Inv

theorem codeBits_toNat_le (c : ResultCode) : (codeBits c).toNat ≤ 7 := by
  cases c <;> decide

theorem State.hasDiag_iff (s : State) : s.hasDiag = true ↔ s.diagcnt ≠ 0#12 := by
  simp [State.hasDiag]

/-- A count stored in a register never exceeds the number stored. -/
theorem ofNat_toNat_le (w n : Nat) : (BitVec.ofNat w n).toNat ≤ n := by
  rw [BitVec.toNat_ofNat]
  exact Nat.mod_le _ _

theorem State.Inv.sound {s : State} (h : s.Inv) : s.Sound :=
  { h with
    code_le := by simp [codeBits_toNat_le]
    df_diag := by simp }

/-- The end of a command makes the invariant whole again, if `DF` is set over a non-empty log only
(R25). -/
theorem State.Sound.endCommand {s : State} (h : s.Sound) (c : ResultCode) {df : Bool}
    (hdf : df = true → s.diagcnt ≠ 0#12) : (s.endCommand c df).Inv :=
  { h with
    code_le := by simp [codeBits_toNat_le]
    df_diag := by simpa using hdf }

theorem State.Sound.setCur {s : State} (h : s.Sound) {n : Nat} (hn : n ≤ s.limit) :
    (s.setCur n).Sound :=
  { h with cur_le := (ofNat_toNat_le 19 n).trans hn }

theorem State.Sound.setBitv {s : State} (h : s.Sound) (b : Bool) : (s.setBitv b).Sound :=
  { h with }

theorem State.Sound.putWork {s : State} (h : s.Sound) {bs : List Byte} (hb : bs.length ≤ 1024) :
    (s.putWork bs).Sound :=
  { h with
    wlen_le := (ofNat_toNat_le 11 bs.length).trans hb
    wb_wf := Memory.wf_writeRange 0 bs h.wb_wf
    wb_below := Memory.below_writeRange bs ((Nat.zero_add _).trans_le hb) h.wb_below }

theorem State.Sound.clearDecode {s : State} (h : s.Sound) : s.clearDecode.Sound :=
  { h with
    olen_le := Nat.zero_le _
    nlen_le := Nat.zero_le _
    diagcnt_le := Nat.zero_le _
    df_diag := by simp }

theorem State.Sound.putOutput {s : State} (h : s.Sound) {bs : List Byte}
    (hb : bs.length ≤ 1024) : (s.putOutput bs).Sound :=
  { h with
    olen_le := (ofNat_toNat_le 11 bs.length).trans hb
    ob_wf := Memory.wf_writeRange 0 bs h.ob_wf
    ob_below := Memory.below_writeRange bs ((Nat.zero_add _).trans_le hb) h.ob_below }

theorem State.Sound.putNibbles {s : State} (h : s.Sound) {ns : List Byte}
    (hn : ns.length ≤ 2048) : (s.putNibbles ns).Sound :=
  { h with
    nlen_le := (ofNat_toNat_le 12 ns.length).trans hn
    nb_wf := Memory.wf_writeRange 0 ns h.nb_wf
    nb_below := Memory.below_writeRange ns ((Nat.zero_add _).trans_le hn) h.nb_below }

theorem State.Sound.putDiag {s : State} (h : s.Sound) {d : Nat} {rs : List DiagWord}
    (hd : d + rs.length ≤ 2048) : (s.putDiag d rs).Sound :=
  { h with
    diagcnt_le := (ofNat_toNat_le 12 (d + rs.length)).trans hd
    df_diag := by simp
    diag_wf := Memory.wf_writeRange d rs h.diag_wf
    diag_below := Memory.below_writeRange rs hd h.diag_below }

theorem State.Sound.putSh {s : State} (h : s.Sound) (v : Vector Byte 8) : (s.putSh v).Sound :=
  { h with }

theorem State.Sound.putHdr {s : State} (h : s.Sound) (v : Vector Byte 7) : (s.putHdr v).Sound :=
  { h with }

theorem State.Sound.setPos {s : State} (h : s.Sound) {p : Word} (hp : posLegal p) :
    (s.setPos p).Sound :=
  { h with pos_legal := hp }

theorem State.Sound.putSweep {s : State} (h : s.Sound) {slots found : Nat} {pt : Vector Word 21}
    {ordsec : Vector Byte 21} {ordpos : Vector Word 21} (hf : found ≤ slots) (hs : slots ≤ 21)
    (hpt : ∀ i : Fin 21, posLegal pt[i]) (hop : ∀ i : Fin 21, posLegal ordpos[i]) :
    (s.putSweep slots found pt ordsec ordpos).Sound :=
  { h with
    nfound_le := by
      show (BitVec.ofNat 5 found).toNat ≤ (BitVec.ofNat 5 slots).toNat
      rw [BitVec.toNat_ofNat, BitVec.toNat_ofNat]
      omega
    nslot_le := (ofNat_toNat_le 5 slots).trans hs
    pt_legal := hpt
    ordpos_legal := hop }

theorem State.Sound.clearPayload {s : State} (h : s.Sound) : s.clearPayload.Sound :=
  { h with
    olen_le := Nat.zero_le _
    rawlen_le := Nat.zero_le _ }

theorem State.Sound.putPayload {s : State} (h : s.Sound) {r : List Byte} (hr : r.length ≤ 388) :
    (s.putPayload r).Sound :=
  { h with
    olen_le := (ofNat_toNat_le 11 _).trans (by omega)
    rawlen_le := (ofNat_toNat_le 11 _).trans hr
    ob_wf := Memory.wf_writeRange 0 r h.ob_wf
    ob_below := Memory.below_writeRange r (by simp [Config.obMax]; omega) h.ob_below }

/-! ## Invariant, host accesses and reset (20_memory.md R62; 70_reset_and_hazards.md R270) -/

/-- The reset values satisfy the invariant under every admitted parameter set, whatever the model's
own fields hold (R50; log entries 5 and 7). -/
theorem reset_inv {p : Config.Params} (hp : p.wellFormed = true) (epoch : Nat)
    (events : List HostEvent) (replies : List Word) :
    ({ State.reset with
      params := p, ramEpoch := epoch, pending := events, replies := replies }).Inv := by
  obtain ⟨htb, hwb, hob, hnb, hdiag⟩ := State.reset_wf
  have hnone : ∀ i : Fin 21, posLegal (Vector.replicate 21 0xFFFFFFFF#32)[i] := fun i =>
    .inl (Vector.getElem_replicate i.isLt)
  exact
    { cur_le := Nat.zero_le _, wlen_le := Nat.zero_le _, olen_le := Nat.zero_le _
      rawlen_le := Nat.zero_le _, nlen_le := Nat.zero_le _, diagcnt_le := Nat.zero_le _
      nfound_le := Nat.zero_le _, nslot_le := Nat.zero_le _, code_le := Nat.zero_le _
      df_diag := fun h => absurd (show State.reset.df = true from h) (by decide)
      pos_legal := .inl rfl, pt_legal := hnone, ordpos_legal := hnone
      tb_wf := htb, wb_wf := hwb, ob_wf := hob, nb_wf := hnb, diag_wf := hdiag
      tb_below := List.forall_mem_nil _, wb_below := List.forall_mem_nil _
      ob_below := List.forall_mem_nil _, nb_below := List.forall_mem_nil _
      diag_below := List.forall_mem_nil _, params_wf := hp }

/-- The model's own lists are no part of the invariant (log entry 5). -/
theorem State.Inv.withHostLists {s : State} (h : s.Inv) (events : List HostEvent)
    (replies : List Word) : ({ s with pending := events, replies := replies }).Inv :=
  { h with }

/-- A register write keeps the invariant: `TBLEN` clears `CUR`, `CUR` and `WLEN` are clamped
(R62). -/
theorem State.Inv.writeReg {s : State} (h : s.Inv) (v : Word) (r : Reg) : (s.writeReg v r).Inv := by
  cases r
  case tblen => exact { h with cur_le := Nat.zero_le _ }
  case cur => exact { h with cur_le := (ofNat_toNat_le 19 _).trans (Nat.min_le_right _ _) }
  case wlen => exact { h with wlen_le := (ofNat_toNat_le 11 _).trans (Nat.min_le_right _ _) }
  all_goals exact { h with }

/-- An element write keeps the invariant: the element lies below its space's capacity (R62). -/
theorem State.Inv.writeElem {s : State} (h : s.Inv) (v : Word) {sp : Space} {i : Nat}
    (hi : i < spaceCount sp) : (s.writeElem i v sp).Inv := by
  cases sp
  case wb =>
    exact { h with
      wb_wf := Memory.wf_write i _ h.wb_wf, wb_below := Memory.below_write _ hi h.wb_below }
  case tb =>
    exact { h with
      tb_wf := Memory.wf_write i _ h.tb_wf, tb_below := Memory.below_write _ hi h.tb_below }
  all_goals exact h

theorem State.Inv.writeTarget {s : State} (h : s.Inv) (v : Word) {target : Target}
    (ht : ∀ sp i, target = .elem sp i → i < spaceCount sp) : (s.writeTarget v target).Inv := by
  cases target with
  | reg r => exact h.writeReg v r
  | elem sp i => exact h.writeElem v (ht sp i rfl)

end Sys2Proof.Machine

namespace Sys2Proof.Machine

/-! ## Sizes of the results of a command (10_state.md R33, R34; 40_gcr_decode.md R110) -/

/-- `q` whole groups decode to `4q` bytes and `8q` nibbles, with at most one record for each nibble
(R110, R113). -/
theorem gcrDecode_lengths (t : Vector Codeword 16) (phase : Bool) {q : Nat} {input : List Byte}
    (h : input.length = 5 * q) :
    (gcrDecode t phase input).bytes.length = 4 * q ∧
    (gcrDecode t phase input).nibbles.length = 8 * q ∧
    (gcrDecode t phase input).records.length ≤ 8 * q := by
  obtain ⟨hnib, hbytes, _, hrec⟩ := gcrDecode_spec t phase q input h
  exact ⟨hbytes, by rw [hnib]; simp, by rw [hrec]; exact badRecords_length_le ..⟩

/-- A full sector's worth of scrambled bytes unscrambles to at most 388 bytes (R199). -/
theorem unscramble_length {d : List Byte} (h : d.length ≤ rlTake) :
    (unscramble d).length = 2 * (d.length / 3) ∧ (unscramble d).length ≤ 388 := by
  have hl := (unscramble_spec _ d rfl).1
  have ht : rlTake = 582 := rfl
  exact ⟨hl, by omega⟩

/-! ## Commands by their branches (R116, R166, R195, R196) -/

/-- `GCRDEC` rejects a length that is no multiple of 5 and decodes whole groups (R116). -/
theorem gcrdec_cases (s : State) :
    (s.wlen.toNat % 5 ≠ 0 ∧ gcrdec s = s.clearDecode.endCommand .eFormat false) ∨
    ∃ d : Decoded, d.bytes.length = 4 * (s.wlen.toNat / 5) ∧
      d.nibbles.length = 8 * (s.wlen.toNat / 5) ∧ d.records.length ≤ 8 * (s.wlen.toNat / 5) ∧
      gcrdec s = (s.putDecoded d).endCommand .ok (s.putDecoded d).hasDiag := by
  by_cases hq : s.wlen.toNat % 5 = 0
  · obtain ⟨hb, hn, hr⟩ := gcrDecode_lengths s.params.gcrTable false (q := s.wlen.toNat / 5)
      (input := s.wbBytes s.wlen.toNat) (by rw [State.wbBytes_length]; omega)
    exact .inr ⟨_, hb, hn, hr, if_neg (not_not.2 hq)⟩
  · exact .inl ⟨hq, if_pos hq⟩

/-- The counts of a decode whose results fit the buffers are the numbers of its results (R116). -/
theorem State.putDecoded_counts (s : State) {d : Decoded} (hb : d.bytes.length < 2048)
    (hn : d.nibbles.length < 4096) (hr : d.records.length ≤ d.nibbles.length) :
    (s.putDecoded d).olen.toNat = d.bytes.length ∧
    (s.putDecoded d).nlen.toNat = d.nibbles.length ∧
    (s.putDecoded d).diagcnt.toNat = d.records.length := by
  simp only [State.putDecoded, State.putDiag_olen, State.putNibbles_olen, State.putOutput_olen,
    State.putDiag_nlen, State.putNibbles_nlen, State.putDiag_diagcnt, BitVec.toNat_ofNat]
  omega

/-- `UNSCR` delivers the payload of its clamped input (R195). -/
theorem unscr_eq (s : State) : ∃ r : List Byte, r.length ≤ 388 ∧ r.length % 2 = 0 ∧
    unscr s = (s.putPayload r).endCommand .ok false := by
  have hd : (s.wbBytes (min s.wlen.toNat rlTake)).length ≤ rlTake := by simp
  obtain ⟨hl, hle⟩ := unscramble_length hd
  exact ⟨_, hle, by omega, rfl⟩

/-- `RLPAY` refuses an illegal span, reports a missing marker, or delivers a payload (R196). -/
theorem rlpay_cases (s : State) :
    rlpay s = s.endCommand .eRange false ∨ rlpay s = s.clearPayload.endCommand .eNoMark false ∨
    ∃ r : List Byte, r.length ≤ 388 ∧ r.length % 2 = 0 ∧
      rlpay s = (s.putPayload r).endCommand .ok false := by
  unfold rlpay
  dsimp only
  split
  · exact .inl rfl
  · split
    · exact .inr (.inl rfl)
    · next m _ =>
      have hd : (s.tbSpan (m + 2) (min (m + 2 + rlTake) s.spanEnd.toNat)).length ≤ rlTake := by
        rw [State.tbSpan_length]
        omega
      obtain ⟨hl, hle⟩ := unscramble_length hd
      exact .inr (.inr ⟨_, hle, by omega, rfl⟩)

/-- The position of a slot leaves room for seven bytes of `TB` (R44). -/
theorem State.slotPos_bound {s : State} {i p : Nat} (h : s.slotPos i = some p) :
    p + 7 ≤ s.tblen.toNat := by
  unfold State.slotPos at h
  split at h
  · exact State.findFirst_bound h
  · exact absurd h (by simp)

/-- A found position stands in `TB`, whose length is a 16-bit number (R26). -/
theorem State.room_lt {s : State} {p : Nat} (h : p + 7 ≤ s.tblen.toNat) : p + 7 ≤ 65535 := by
  have := s.tblen.isLt
  omega

end Sys2Proof.Machine

namespace Sys2Proof.Machine

/-! ## Frames of the updates (10_state.md R46, R48) -/

/-- Two changes inside a command's registers and tables are one such change. -/
theorem regFrame_trans {s t u : State} {i : Instr} (hst : regFrame s t i) (htu : regFrame t u i) :
    regFrame s u i := by
  cases i <;> (dsimp only [regFrame] at hst htu ⊢; rw [hst] at htu; exact htu)

/-- No command's row holds the parameters (R21, R48). -/
theorem regFrame_params {s t : State} {i : Instr} (h : regFrame s t i) : t.params = s.params := by
  cases i <;> (dsimp only [regFrame] at h; rw [h])

theorem ramSameExcept.mono {bytes bytes' : Config.ByteRam → Nat → Prop}
    {records records' : Nat → Prop} {s t : State} (h : ramSameExcept bytes records s t)
    (hb : ∀ r i, bytes r i → bytes' r i)
    (hr : ∀ i, records i → records' i) : ramSameExcept bytes' records' s t :=
  ⟨fun r i hi => h.1 r i fun hbi => hi (hb r i hbi), fun i hi => h.2 i fun hri => hi (hr i hri)⟩

theorem ramSameExcept.trans {bytes : Config.ByteRam → Nat → Prop} {records : Nat → Prop}
    {s t u : State} (hst : ramSameExcept bytes records s t)
    (htu : ramSameExcept bytes records t u) : ramSameExcept bytes records s u :=
  ⟨fun r i hi => (htu.1 r i hi).trans (hst.1 r i hi), fun i hi => (htu.2 i hi).trans (hst.2 i hi)⟩

/-- Equal buffers under the same reset read alike (R46). -/
theorem ramSame_of_buffers_eq {s t : State} (hram : t.ram = s.ram) (hdiag : t.diag = s.diag)
    (hepoch : t.ramEpoch = s.ramEpoch) : ramSame s t := by
  refine ⟨fun r i _ => ?_, fun i _ => ?_⟩
  · rw [State.ramByte, State.ramByte, hram, hepoch]
  · rw [State.diagAt, State.diagAt, hdiag, hepoch]

theorem ramSame.except {s t : State} (h : ramSame s t) (bytes : Config.ByteRam → Nat → Prop)
    (records : Nat → Prop) : ramSameExcept bytes records s t :=
  ramSameExcept.mono h (fun _ _ => False.elim) (fun _ => False.elim)

theorem State.putWork_ram (s : State) (bs : List Byte) :
    ramSameExcept (wbUpTo bs.length) (fun _ => False) s (s.putWork bs) := by
  refine ⟨fun r i hi => ?_, fun _ _ => rfl⟩
  cases r
  case wb => exact (State.putWork_wbByte s bs i).trans (dif_neg fun hlt => hi ⟨rfl, hlt⟩)
  all_goals rfl

theorem State.putOutput_ram (s : State) (bs : List Byte) :
    ramSameExcept (obUpTo bs.length) (fun _ => False) s (s.putOutput bs) := by
  refine ⟨fun r i hi => ?_, fun _ _ => rfl⟩
  cases r
  case ob => exact (State.putOutput_obByte s bs i).trans (dif_neg fun hlt => hi ⟨rfl, hlt⟩)
  all_goals rfl

theorem State.putPayload_ram (s : State) (r : List Byte) :
    ramSameExcept (obUpTo r.length) (fun _ => False) s (s.putPayload r) :=
  State.putOutput_ram s r

theorem State.putNibbles_ram (s : State) (ns : List Byte) :
    ramSameExcept (fun r i => r = .nb ∧ i < ns.length) (fun _ => False) s (s.putNibbles ns) := by
  refine ⟨fun r i hi => ?_, fun _ _ => rfl⟩
  cases r
  case nb => exact (State.putNibbles_nbByte s ns i).trans (dif_neg fun hlt => hi ⟨rfl, hlt⟩)
  all_goals rfl

theorem State.putDiag_ram (s : State) (d : Nat) (rs : List DiagWord) :
    ramSameExcept (fun _ _ => False) (fun i => i < d + rs.length) s (s.putDiag d rs) :=
  ⟨fun _ _ _ => rfl, fun i hi =>
    (State.putDiag_diagAt s d rs i).trans (if_neg fun hlt => hi hlt.2)⟩

theorem State.putDecoded_ram (s : State) (d : Decoded) :
    ramSameExcept (obNbUpTo d.bytes.length d.nibbles.length) (fun i => i < d.records.length) s
      (s.putDecoded d) := by
  have hob := (s.putOutput_ram d.bytes).mono (bytes' := obNbUpTo d.bytes.length d.nibbles.length)
    (records' := fun i => i < d.records.length) (fun _ _ => .inl) (fun _ => False.elim)
  have hnb := ((s.putOutput d.bytes).putNibbles_ram d.nibbles).mono
    (bytes' := obNbUpTo d.bytes.length d.nibbles.length)
    (records' := fun i => i < d.records.length) (fun _ _ => .inr) (fun _ => False.elim)
  have hdiag := (((s.putOutput d.bytes).putNibbles d.nibbles).putDiag_ram 0 d.records).mono
    (bytes' := obNbUpTo d.bytes.length d.nibbles.length)
    (records' := fun i => i < d.records.length) (fun _ _ => False.elim) (fun i hi => by omega)
  exact (hob.trans hnb).trans hdiag

/-! ## The steps of `RDSEC` (41_bit_cursor_sync.md R136) -/

/-- `find_sync()` moves the cursor only, and not past `LIMIT` (R134). -/
theorem findSync_setCur (s : State) : ∃ n, (s.cur.toNat ≤ s.limit → n ≤ s.limit) ∧
    (findSync s = .done (s.setCur n) ∨ findSync s = .failed .eSync (s.setCur n)) := by
  by_cases hc : s.cur.toNat ≤ s.limit
  · rcases findSync_cases s hc with ⟨k, hk, he⟩ | ⟨_, he⟩
    · obtain ⟨⟨_, hlt, _⟩, _⟩ := hk
      exact ⟨k, fun _ => hlt.le, .inl he⟩
    · exact ⟨s.limit, fun _ => Nat.le_refl _, .inr he⟩
  · obtain ⟨n, he⟩ := findSync_moves_cursor s
    exact ⟨n, fun hle => absurd hle hc, he⟩

/-- `t` stands somewhere inside an `RDSEC` that started in `s`, with at most `d` records logged:
only the places of the command's row have changed, the results have the sizes of R136, and the
invariant is kept apart from `STATUS`. -/
structure SectorProgress (s : State) (d : Nat) (t : State) : Prop where
  regs : regFrame s t .rdsec
  ram : ramSameExcept (wbObNbUpTo 325 256 520) (fun i => i < t.diagcnt.toNat) s t
  diagcnt_le : t.diagcnt.toNat ≤ d
  nlen_le : t.nlen.toNat ≤ 520
  olen_le : t.olen.toNat ≤ 256
  sound : s.Sound → t.Sound

namespace SectorProgress

variable {s t : State} {d : Nat}

theorem mono {d' : Nat} (h : SectorProgress s d t) (hd : d ≤ d') : SectorProgress s d' t :=
  { h with diagcnt_le := h.diagcnt_le.trans hd }

/-- A further update that writes the row's elements only and forgets no record. -/
theorem ram_trans {u : State} (h : SectorProgress s d t)
    (htu : ramSameExcept (wbObNbUpTo 325 256 520) (fun i => i < u.diagcnt.toNat) t u)
    (hle : t.diagcnt.toNat ≤ u.diagcnt.toNat) :
    ramSameExcept (wbObNbUpTo 325 256 520) (fun i => i < u.diagcnt.toNat) s u :=
  (h.ram.mono (fun _ _ => id) (fun _ hi => hi.trans_le hle)).trans htu

theorem clearDecode (s : State) : SectorProgress s 0 s.clearDecode where
  regs := rfl
  ram := ramSame.except (ramSame_of_buffers_eq rfl rfl rfl) _ _
  diagcnt_le := Nat.zero_le _
  nlen_le := Nat.zero_le _
  olen_le := Nat.zero_le _
  sound := State.Sound.clearDecode

theorem setCur (h : SectorProgress s d t) {n : Nat} (hn : t.cur.toNat ≤ t.limit → n ≤ t.limit) :
    SectorProgress s d (t.setCur n) :=
  { h with
    regs := regFrame_trans h.regs rfl
    ram := h.ram
    sound := fun hs => (h.sound hs).setCur (hn (h.sound hs).cur_le) }

theorem putWork (h : SectorProgress s d t) {bs : List Byte} (hb : bs.length ≤ 325) :
    SectorProgress s d (t.putWork bs) :=
  { h with
    regs := regFrame_trans h.regs rfl
    ram := h.ram_trans ((t.putWork_ram bs).mono
      (fun _ _ hi => .inl ⟨hi.1, hi.2.trans_le hb⟩) (fun _ => False.elim)) (Nat.le_refl _)
    sound := fun hs => (h.sound hs).putWork (by omega) }

theorem putSh (h : SectorProgress s d t) (v : Vector Byte 8) : SectorProgress s d (t.putSh v) :=
  { h with
    regs := regFrame_trans h.regs rfl
    ram := h.ram
    sound := fun hs => (h.sound hs).putSh v }

theorem putNibbles (h : SectorProgress s d t) {ns : List Byte} (hn : ns.length ≤ 520) :
    SectorProgress s d (t.putNibbles ns) :=
  { h with
    regs := regFrame_trans h.regs rfl
    ram := h.ram_trans ((t.putNibbles_ram ns).mono
      (fun _ _ hi => .inr (.inr ⟨hi.1, hi.2.trans_le hn⟩)) (fun _ => False.elim)) (Nat.le_refl _)
    nlen_le := (ofNat_toNat_le 12 _).trans hn
    sound := fun hs => (h.sound hs).putNibbles (by omega) }

theorem putOutput (h : SectorProgress s d t) {bs : List Byte} (hb : bs.length ≤ 256) :
    SectorProgress s d (t.putOutput bs) :=
  { h with
    regs := regFrame_trans h.regs rfl
    ram := h.ram_trans ((t.putOutput_ram bs).mono
      (fun _ _ hi => .inr (.inl ⟨hi.1, hi.2.trans_le hb⟩)) (fun _ => False.elim)) (Nat.le_refl _)
    olen_le := (ofNat_toNat_le 11 _).trans hb
    sound := fun hs => (h.sound hs).putOutput (by omega) }

/-- Records appended to the log (R115). -/
theorem putDiag (h : SectorProgress s d t) {k : Nat} (hk : k = t.diagcnt.toNat)
    {rs : List DiagWord} {d' : Nat} (hd : d + rs.length ≤ d') (hcap : d' ≤ 2048) :
    SectorProgress s d' (t.putDiag k rs) := by
  have hle := h.diagcnt_le
  have hcount : (t.putDiag k rs).diagcnt.toNat = k + rs.length := by
    rw [State.putDiag_diagcnt, BitVec.toNat_ofNat]
    omega
  exact
    { h with
      regs := regFrame_trans h.regs rfl
      ram := h.ram_trans ((t.putDiag_ram k rs).mono (fun _ _ => False.elim)
        (fun i hi => by omega)) (by omega)
      diagcnt_le := by omega
      sound := fun hs => (h.sound hs).putDiag (by omega) }

theorem findSync (h : SectorProgress s d t) :
    (findSync t).Sat (SectorProgress s d) (fun _ => SectorProgress s d) := by
  obtain ⟨n, hn, he | he⟩ := findSync_setCur t
  · rw [he]
    exact h.setCur hn
  · rw [he]
    exact h.setCur hn

theorem readBytes (h : SectorProgress s d t) {n : Nat} (hn : n ≤ 325) :
    (readBytes n t).Sat (SectorProgress s d) (fun _ => SectorProgress s d) := by
  rcases readBytes_cases n t with ⟨hroom, he⟩ | ⟨_, _, he⟩
  · rw [he]
    refine (h.putWork (by simpa using hn)).setCur fun hle => ?_
    simp only [State.putWork_cur, State.putWork_limit] at hle ⊢
    omega
  · rw [he]
    exact h.setCur fun _ => Nat.le_refl _

/-- The header decode logs at most 16 records (R136). -/
theorem headerStage (h : SectorProgress s 0 t) :
    (headerStage t).Sat (SectorProgress s 16) (fun _ => SectorProgress s 16) := by
  obtain ⟨_, hn, hr⟩ := gcrDecode_lengths t.params.gcrTable false (q := 2)
    (input := t.wbBytes hdrRaw) (State.wbBytes_length t hdrRaw)
  have hzero : 0 = t.diagcnt.toNat := (Nat.le_zero.1 h.diagcnt_le).symm
  unfold Machine.headerStage
  generalize gcrDecode _ _ _ = e at hn hr ⊢
  have hsh := h.putSh (Vector.ofFn fun i => e.bytes.getD i.val 0#8)
  exact (hsh.putNibbles (ns := e.nibbles) (by omega)).putDiag hzero (rs := e.records) (d' := 16)
    (by omega) (by omega)

/-- The data decode logs at most 520 further records (R136). -/
theorem dataStage (h : SectorProgress s 16 t) :
    (dataStage t).Sat (SectorProgress s 536) (fun _ => SectorProgress s 536) := by
  obtain ⟨_, hn, hr⟩ := gcrDecode_lengths t.params.gcrTable true (q := 65)
    (input := t.wbBytes dataRaw) (State.wbBytes_length t dataRaw)
  unfold Machine.dataStage
  generalize gcrDecode _ _ _ = e at hn hr ⊢
  exact ((h.putNibbles (ns := e.nibbles) (by omega)).putDiag rfl (rs := e.records) (by omega)
    (by omega)).putOutput (List.length_take_le _ _)

/-- A failure inside an earlier step is a failure inside the whole command. -/
theorem sat_weaken {st : Stage} (hd : d ≤ 536)
    (h : st.Sat (SectorProgress s d) (fun _ => SectorProgress s d)) :
    st.Sat (SectorProgress s d) (fun _ => SectorProgress s 536) := by
  cases st with
  | done u => exact h
  | failed c u => exact mono h hd

end SectorProgress

/-- `RDSEC` ends somewhere along its steps, with `DF` as the log says (R136, R25). -/
theorem rdsec_eq (s : State) : ∃ (c : ResultCode) (t : State), SectorProgress s 536 t ∧
    rdsec s = t.endCommand c t.hasDiag := by
  have hsat : (sectorStages s).Sat (SectorProgress s 536) (fun _ => SectorProgress s 536) :=
    sectorStages_sat (SectorProgress s 0) (SectorProgress s 0) (SectorProgress s 16)
      (SectorProgress s 16) (SectorProgress s 16) (SectorProgress s 536)
      (SectorProgress.sat_weaken (by omega) (SectorProgress.clearDecode s).findSync)
      (fun _ h => SectorProgress.sat_weaken (by omega) (h.readBytes (by decide)))
      (fun _ h => SectorProgress.sat_weaken (by omega) h.headerStage)
      (fun _ h => SectorProgress.sat_weaken (by omega) h.findSync)
      (fun _ h => SectorProgress.sat_weaken (by omega) (h.readBytes (by decide)))
      (fun _ h => h.dataStage)
  exact ⟨_, _, (Stage.result_cases hsat).elim And.right id, rfl⟩

end Sys2Proof.Machine

namespace Sys2Proof.Machine

/-! ## Found slots stand at distinct positions (42_rapidlok_header.md R162, R167, R168) -/

theorem append_bits_inj {w v : Nat} {x x' : BitVec w} {y y' : BitVec v}
    (h : x ++ y = x' ++ y') : x = x' ∧ y = y' := by
  constructor
  · simpa only [BitVec.extractLsb'_append_eq_left] using congrArg (BitVec.extractLsb' v w) h
  · simpa only [BitVec.extractLsb'_append_eq_right] using congrArg (BitVec.extractLsb' 0 v) h

/-- An admitted order names both nibbles of `x` (R162, U6). -/
theorem xLo_mem_of_wellFormed {o : Config.PairOrder} (ho : o.wellFormed = true) :
    o.place0 = .xHi ∧ (o.place1 = .xLo ∨ o.place2 = .xLo ∨ o.place3 = .xLo) := by
  obtain ⟨p0, p1, p2, p3⟩ := o
  simp only [Config.PairOrder.wellFormed, Bool.and_eq_true, decide_eq_true_eq] at ho ⊢
  obtain ⟨rfl, hn⟩ := ho
  refine ⟨rfl, ?_⟩
  cases p1 <;> cases p2 <;> cases p3 <;> simp at hn ⊢

/-- Under an admitted order a pair's word determines `x` (R161, R162). -/
theorem pairWord_injective {o : Config.PairOrder} (ho : o.wellFormed = true) {a x y : Byte}
    (h : pairWord o a x = pairWord o a y) : x = y := by
  obtain ⟨h012, h3⟩ := append_bits_inj (w := 18) (v := 6) h
  obtain ⟨h01, h2⟩ := append_bits_inj (w := 12) (v := 6) h012
  obtain ⟨h0, h1⟩ := append_bits_inj (w := 6) (v := 6) h01
  obtain ⟨hhi, hlo⟩ := xLo_mem_of_wellFormed ho
  have high : x.extractLsb' 4 4 = y.extractLsb' 4 4 := by
    rw [hhi] at h0
    exact t6_injective _ _ h0
  have low : x.extractLsb' 0 4 = y.extractLsb' 0 4 := by
    rcases hlo with hp | hp | hp
    · rw [hp] at h1
      exact t6_injective _ _ h1
    · rw [hp] at h2
      exact t6_injective _ _ h2
    · rw [hp] at h3
      exact t6_injective _ _ h3
  have hx : (x.extractLsb' 4 4 ++ x.extractLsb' 0 4 : BitVec 8) = x :=
    BitVec.extractLsb'_append_extractLsb'
  rw [← hx, high, low]
  exact BitVec.extractLsb'_append_extractLsb'

/-- Under an admitted order the headers of two sectors of a track differ (R168). -/
theorem synthesizeHeader_injective {o : Config.PairOrder} (ho : o.wellFormed = true)
    {track x y : Byte} (h : synthesizeHeader o track x = synthesizeHeader o track y) : x = y := by
  obtain ⟨_, hx1, hx2, hx3, _⟩ := synthesizeHeader_bytes o track x
  obtain ⟨_, hy1, hy2, hy3, _⟩ := synthesizeHeader_bytes o track y
  apply pairWord_injective ho (a := track)
  rw [← bytes_append (pairWord o track x), ← bytes_append (pairWord o track y), ← hx1, ← hx2, ← hx3,
    ← hy1, ← hy2, ← hy3, h]

/-- Two headers that stand at one position are equal (R165). -/
theorem State.headerMatches_unique {s : State} {h h' : Vector Byte 7} {p : Nat}
    (hm : s.headerMatches h p) (hm' : s.headerMatches h' p) : h = h' :=
  Vector.ext fun j hj => (hm.2 ⟨j, hj⟩).symm.trans (hm'.2 ⟨j, hj⟩)

theorem State.slotPos_eq_some_iff (s : State) (i p : Nat) :
    s.slotPos i = some p ↔ i ≤ sectorsPerTrack s.trk ∧
      s.headerFirst (synthesizeHeader s.params.pairOrder s.trk (BitVec.ofNat 8 i)) p := by
  unfold State.slotPos
  split <;> simp [*, State.findFirst_eq_some_iff]

theorem State.slotPos_eq_none_iff (s : State) (i : Nat) :
    s.slotPos i = none ↔ (i ≤ sectorsPerTrack s.trk →
      ∀ p, ¬ s.headerMatches (synthesizeHeader s.params.pairOrder s.trk (BitVec.ofNat 8 i)) p) := by
  unfold State.slotPos
  split <;> simp [*, State.findFirst_eq_none_iff]

/-- Under an admitted order no two slots stand at one position (R168). -/
theorem State.slotPos_injective {s : State} (ho : s.params.pairOrder.wellFormed = true)
    {i j p : Nat} (hi : s.slotPos i = some p) (hj : s.slotPos j = some p) : i = j := by
  obtain ⟨hil, hif, _⟩ := (s.slotPos_eq_some_iff i p).1 hi
  obtain ⟨hjl, hjf, _⟩ := (s.slotPos_eq_some_iff j p).1 hj
  have hle := sectorsPerTrack_le s.trk
  have hb := synthesizeHeader_injective ho (State.headerMatches_unique hif hjf)
  have hn := congrArg BitVec.toNat hb
  simp only [BitVec.toNat_ofNat] at hn
  omega

/-- Under an admitted order the found slots stand in strictly ascending order of position
(R45, R167). -/
theorem State.foundSlots_pairwise_lt {s : State} (ho : s.params.pairOrder.wellFormed = true) :
    s.foundSlots.Pairwise (fun x y => x.1 < y.1) := by
  have hne : s.foundSlots.Pairwise (fun x y => x.2 ≠ y.2) := List.pairwise_map.1 s.foundSlots_nodup
  refine (s.foundSlots_sorted.and hne).imp_of_mem fun {x y} hx hy ⟨hle, hxy⟩ => ?_
  refine lt_of_le_of_ne hle fun heq => hxy ?_
  exact State.slotPos_injective ho ((s.mem_foundSlots x.1 x.2).1 hx)
    (heq ▸ (s.mem_foundSlots y.1 y.2).1 hy)

/-- A found slot is one of the track's, with a position that leaves room for its header (R167). -/
theorem State.foundSlots_getElem {s : State} {i : Nat} (h : i < s.foundSlots.length) :
    s.slotPos s.foundSlots[i].2 = some s.foundSlots[i].1 ∧
    s.foundSlots[i].2 ≤ sectorsPerTrack s.trk ∧ s.foundSlots[i].1 + 7 ≤ s.tblen.toNat := by
  have hp := (s.mem_foundSlots s.foundSlots[i].1 s.foundSlots[i].2).1 (List.getElem_mem h)
  exact ⟨hp, ((s.slotPos_eq_some_iff _ _).1 hp).1, State.slotPos_bound hp⟩

/-! ## What a sweep leaves (10_state.md R44, R45) -/

theorem posWord_toInt_eq_iff {o : Option Nat} (h : ∀ p, o = some p → p ≤ 65535) :
    (posWord o).toInt = -1 ↔ o = none := by
  cases o with
  | none => simp [posWord_none_toInt]
  | some p =>
    rw [posWord_some_toInt (h p rfl)]
    simp

theorem rlsweep_pt (s : State) (i : Fin 21) : (rlsweep s).pt[i] = posWord (s.slotPos i.val) :=
  Vector.getElem_ofFn i.isLt

theorem rlsweep_nslot (s : State) : (rlsweep s).nslot.toNat = sectorsPerTrack s.trk + 1 := by
  have := sectorsPerTrack_le s.trk
  show (BitVec.ofNat 5 (sectorsPerTrack s.trk + 1)).toNat = _
  rw [BitVec.toNat_ofNat]
  omega

theorem rlsweep_nfound (s : State) : (rlsweep s).nfound.toNat = s.foundSlots.length := by
  have := sectorsPerTrack_le s.trk
  have := s.foundSlots_length_le
  show (BitVec.ofNat 5 s.foundSlots.length).toNat = _
  rw [BitVec.toNat_ofNat]
  omega

theorem rlsweep_ordpos (s : State) (i : Fin 21) :
    (rlsweep s).ordpos[i] = posWord (s.foundSlots[i.val]?.map Prod.fst) :=
  Vector.getElem_ofFn i.isLt

theorem rlsweep_ordsec (s : State) (i : Fin 21) : (rlsweep s).ordsec[i] =
    (s.foundSlots[i.val]?.map (fun e => BitVec.ofNat 8 e.2)).getD 0xFF#8 :=
  Vector.getElem_ofFn i.isLt

/-- The entry of a found position: the position, and the slot found there (R45). -/
theorem rlsweep_found {s : State} {i : Fin 21} (h : i.val < s.foundSlots.length) :
    (rlsweep s).ordpos[i] = posWord (some s.foundSlots[i.val].1) ∧
    (rlsweep s).ordpos[i].toNat = s.foundSlots[i.val].1 ∧
    (rlsweep s).ordsec[i].toNat = s.foundSlots[i.val].2 := by
  obtain ⟨_, hslot, hroom⟩ := State.foundSlots_getElem h
  have hpos : (rlsweep s).ordpos[i] = posWord (some s.foundSlots[i.val].1) := by
    rw [rlsweep_ordpos, List.getElem?_eq_getElem h, Option.map_some]
  refine ⟨hpos, ?_, ?_⟩
  · rw [hpos, posWord_some_toNat]
    exact (Nat.le_add_right _ 7).trans (State.room_lt hroom)
  · have := sectorsPerTrack_le s.trk
    rw [rlsweep_ordsec, List.getElem?_eq_getElem h, Option.map_some, Option.getD_some,
      BitVec.toNat_ofNat]
    omega

theorem rlsweep_not_found {s : State} {i : Fin 21} (h : s.foundSlots.length ≤ i.val) :
    (rlsweep s).ordpos[i] = posWord none ∧ (rlsweep s).ordsec[i] = 0xFF#8 := by
  rw [rlsweep_ordpos, rlsweep_ordsec, List.getElem?_eq_none h]
  exact ⟨rfl, rfl⟩

end Sys2Proof.Machine

namespace Sys2Proof.Machine

/-! ## What every command does before it writes `STATUS` (10_state.md R25, R48, R49) -/

/-- What `DF` becomes at the end of a command that leaves `u` (R25). -/
def endFlag (u : State) : Instr → Bool
  | .gcrdec | .rdsec => u.hasDiag
  | _ => false

/-- `u` is what the command leaves apart from `STATUS`: only the places of its row have changed, and
the invariant is kept. -/
structure CommandBody (i : Instr) (s u : State) : Prop where
  regs : regFrame s u i
  ram : ramFrame s u i
  sound : s.Sound → u.Sound

/-- The command ends as R240 says: it leaves a body, and writes a code and the flag of R25. -/
def EndsWithBody (i : Instr) (s t : State) : Prop :=
  ∃ (u : State) (c : ResultCode), CommandBody i s u ∧ t = u.endCommand c (endFlag u i)

theorem ramFrame_of_ramSame {s t : State} (i : Instr) (h : ramSame s t) : ramFrame s t i := by
  cases i <;> exact h.except _ _

theorem ramSame_refl (s : State) : ramSame s s := ⟨fun _ _ _ => rfl, fun _ _ => rfl⟩

theorem CommandBody.refl (i : Instr) (s : State) : CommandBody i s s where
  regs := by cases i <;> rfl
  ram := ramFrame_of_ramSame i (ramSame_refl s)
  sound := id

/-- The end of a command writes `STATUS`, which stands in every row (R48). -/
theorem regFrame_endCommand (s : State) (c : ResultCode) (df : Bool) (i : Instr) :
    regFrame s (s.endCommand c df) i := by
  cases i <;> rfl

theorem ramFrame_endCommand {s u : State} {i : Instr} (h : ramFrame s u i) (c : ResultCode)
    (df : Bool) : ramFrame s (u.endCommand c df) i := by
  cases i <;> exact h

theorem gcrdec_endsWithBody (s : State) : EndsWithBody .gcrdec s (gcrdec s) := by
  rcases gcrdec_cases s with ⟨_, he⟩ | ⟨d, hb, hn, hr, he⟩
  · refine ⟨s.clearDecode, .eFormat, ⟨rfl, ?_, State.Sound.clearDecode⟩, he⟩
    exact ramFrame_of_ramSame .gcrdec (ramSame_of_buffers_eq rfl rfl rfl)
  · have hw := s.wlen.isLt
    obtain ⟨holen, hnlen, hdiag⟩ := s.putDecoded_counts (d := d) (by omega) (by omega) (by omega)
    refine ⟨s.putDecoded d, .ok, ⟨rfl, ?_, fun hs => ?_⟩, he⟩
    · show ramSameExcept (obNbUpTo _ _) (fun i => i < _) s (s.putDecoded d)
      rw [holen, hnlen, hdiag]
      exact s.putDecoded_ram d
    · have hwlen : s.wlen.toNat ≤ 1024 := hs.wlen_le
      exact ((hs.putOutput (by omega)).putNibbles (by omega)).putDiag (by omega)

theorem rdbit_endsWithBody (s : State) : EndsWithBody .rdbit s (rdbit s) := by
  unfold rdbit
  split
  · exact ⟨s, .eShort, .refl .rdbit s, rfl⟩
  · refine ⟨(s.setCur (s.cur.toNat + 1)).setBitv (s.tbBit s.cur.toNat), .ok,
      ⟨rfl, ramSame_of_buffers_eq rfl rfl rfl, fun hs => ?_⟩, rfl⟩
    exact (hs.setCur (by omega)).setBitv _

theorem rdbytes_endsWithBody (s : State) : EndsWithBody .rdbytes s (rdbytes s) := by
  have hmax : Config.wbMax = 1024 := rfl
  unfold rdbytes
  split
  · exact ⟨s, .eRange, .refl .rdbytes s, rfl⟩
  · rcases readBytes_cases s.cnt.toNat s with ⟨hroom, he⟩ | ⟨_, _, he⟩
    · have hlen := s.streamBytes_length s.cur.toNat s.cnt.toNat
      refine ⟨(s.putWork (s.streamBytes s.cur.toNat s.cnt.toNat)).setCur _, .ok,
        ⟨rfl, ?_, fun hs => (hs.putWork (by omega)).setCur ?_⟩, by rw [he]; rfl⟩
      · exact (s.putWork_ram _).mono (fun _ _ hi => ⟨hi.1, by rw [← hlen]; exact hi.2⟩)
          (fun _ => id)
      · have hcur : s.cur.toNat ≤ s.limit := hs.cur_le
        rw [State.putWork_limit]
        omega
    · exact ⟨s.setCur s.limit, .eShort, ⟨rfl, ramFrame_of_ramSame .rdbytes
        (ramSame_of_buffers_eq rfl rfl rfl), fun hs => hs.setCur (Nat.le_refl _)⟩, by rw [he]; rfl⟩

theorem sync_endsWithBody (s : State) : EndsWithBody .sync s (sync s) := by
  obtain ⟨n, hn, he⟩ := findSync_setCur s
  have hbody : CommandBody .sync s (s.setCur n) :=
    ⟨rfl, ramSame_of_buffers_eq rfl rfl rfl, fun hs => hs.setCur (hn hs.cur_le)⟩
  unfold sync
  rcases he with he | he <;> rw [he]
  · exact ⟨_, .ok, hbody, rfl⟩
  · exact ⟨_, .eSync, hbody, rfl⟩

theorem rdsec_endsWithBody (s : State) : EndsWithBody .rdsec s (rdsec s) := by
  obtain ⟨c, u, hu, he⟩ := rdsec_eq s
  exact ⟨u, c, ⟨hu.regs, hu.ram, hu.sound⟩, he⟩

theorem rlfind_endsWithBody (s : State) : EndsWithBody .rlfind s (rlfind s) := by
  refine ⟨s.setPos (posWord (s.findFirst s.hdr)), _,
    ⟨rfl, ramSame_of_buffers_eq rfl rfl rfl,
      fun hs => hs.setPos (posWord_legal fun p hp => ?_)⟩, rfl⟩
  exact State.room_lt (State.findFirst_bound hp)

theorem rlsweep_endsWithBody (s : State) : EndsWithBody .rlsweep s (rlsweep s) := by
  refine ⟨s.putSweep (sectorsPerTrack s.trk + 1) s.foundSlots.length (rlsweep s).pt
    (rlsweep s).ordsec (rlsweep s).ordpos, .ok,
    ⟨rfl, ramSame_of_buffers_eq rfl rfl rfl, fun hs => ?_⟩, rfl⟩
  refine hs.putSweep s.foundSlots_length_le (Nat.succ_le_succ (sectorsPerTrack_le s.trk))
    (fun i => ?_) (fun i => ?_)
  · rw [rlsweep_pt]
    exact posWord_legal fun p hp => State.room_lt (State.slotPos_bound hp)
  · rw [rlsweep_ordpos]
    refine posWord_legal fun p hp => ?_
    obtain ⟨⟨q, slot⟩, he, rfl⟩ := Option.map_eq_some_iff.1 hp
    have hslot := (s.mem_foundSlots q slot).1 (List.mem_of_getElem? he)
    exact State.room_lt (State.slotPos_bound hslot)

/-- The delivery of a payload stays inside the rows of `RLPAY` and `UNSCR` (R196). -/
theorem putPayload_ramFrame (s : State) {r : List Byte} (hr : r.length ≤ 388) :
    ramFrame s (s.putPayload r) .unscr := by
  have hraw : (s.putPayload r).rawlen.toNat = r.length := by
    rw [State.putPayload_rawlen, BitVec.toNat_ofNat]
    omega
  show ramSameExcept (obUpTo _) _ s (s.putPayload r)
  rw [hraw]
  exact s.putPayload_ram r

theorem unscr_endsWithBody (s : State) : EndsWithBody .unscr s (unscr s) := by
  obtain ⟨r, hr, _, he⟩ := unscr_eq s
  exact ⟨s.putPayload r, .ok, ⟨rfl, putPayload_ramFrame s hr, fun hs => hs.putPayload hr⟩, he⟩

theorem rlpay_endsWithBody (s : State) : EndsWithBody .rlpay s (rlpay s) := by
  rcases rlpay_cases s with he | he | ⟨r, hr, _, he⟩
  · exact ⟨s, .eRange, .refl .rlpay s, he⟩
  · exact ⟨s.clearPayload, .eNoMark, ⟨rfl, ramFrame_of_ramSame .rlpay
      (ramSame_of_buffers_eq rfl rfl rfl), State.Sound.clearPayload⟩, he⟩
  · exact ⟨s.putPayload r, .ok, ⟨rfl, putPayload_ramFrame s hr, fun hs => hs.putPayload hr⟩, he⟩

/-- Every command leaves a body and then writes `STATUS` (R24, R25, R46, R48, R240). -/
theorem commandEnd_endsWithBody (i : Instr) (s : State) : EndsWithBody i s (commandEnd i s) := by
  cases i with
  | nop => exact ⟨s, .ok, .refl .nop s, rfl⟩
  | gcrdec => exact gcrdec_endsWithBody s
  | rdbit => exact rdbit_endsWithBody s
  | rdbytes => exact rdbytes_endsWithBody s
  | sync => exact sync_endsWithBody s
  | rdsec => exact rdsec_endsWithBody s
  | rlhdr =>
    exact ⟨s.putHdr (synthesizeHeader s.params.pairOrder s.trk s.sec), .ok,
      ⟨rfl, ramSame_of_buffers_eq rfl rfl rfl, fun hs => hs.putHdr _⟩, rfl⟩
  | rlfind => exact rlfind_endsWithBody s
  | rlsweep => exact rlsweep_endsWithBody s
  | rlpay => exact rlpay_endsWithBody s
  | unscr => exact unscr_endsWithBody s
  | illegal op => exact ⟨s, .eBadCmd, .refl (.illegal op) s, rfl⟩

/-- Every command keeps the invariant (R49). -/
theorem commandEnd_inv {s : State} (h : s.Inv) (i : Instr) : (commandEnd i s).Inv := by
  obtain ⟨u, c, hu, he⟩ := commandEnd_endsWithBody i s
  rw [he]
  refine (hu.sound h.sound).endCommand c fun hdf => ?_
  cases i with
  | gcrdec => exact u.hasDiag_iff.1 hdf
  | rdsec => exact u.hasDiag_iff.1 hdf
  | _ => exact absurd hdf Bool.false_ne_true

theorem commandEnd_regFrame (i : Instr) (s : State) : regFrame s (commandEnd i s) i := by
  obtain ⟨u, c, hu, he⟩ := commandEnd_endsWithBody i s
  exact he ▸ regFrame_trans hu.regs (regFrame_endCommand u c _ i)

theorem commandEnd_ramFrame (i : Instr) (s : State) : ramFrame s (commandEnd i s) i := by
  obtain ⟨u, c, hu, he⟩ := commandEnd_endsWithBody i s
  exact he ▸ ramFrame_endCommand hu.ram c _

end Sys2Proof.Machine

namespace Sys2Proof.Machine

/-! ## The state family: invariant, step, frames, flags, sweep, bounds -/

/-- Settles O4, by what a step can do: the command of a write to `CMD` keeps the invariant by
`commandEnd_inv`, every other event by the lemma of its access. -/
theorem stepKeepsInvariant : Obligations.StepKeepsInvariant := by
  intro s t hs h
  cases stepResult_of_step h with
  | idle => exact hs
  | reset => exact reset_inv hs.params_wf _ _ _
  | read => exact hs.withHostLists _ _
  | write _ hr =>
    exact (hs.withHostLists _ _).writeTarget _ fun _ _ ht =>
      lt_spaceCount_of_resolve (ht ▸ hr)
  | command => exact commandEnd_inv ((hs.withHostLists _ _).writeReg _ .cmd) _

/-- Settles O3. -/
theorem powerOnSatisfiesInvariant : Obligations.PowerOnSatisfiesInvariant :=
  fun _ events hp => reset_inv hp 0 events []

/-- Settles O5, by induction over how the state is reached. -/
theorem reachableStatesSatisfyInvariant : Obligations.ReachableStatesSatisfyInvariant := by
  intro s h
  induction h with
  | powerOn p events hp => exact powerOnSatisfiesInvariant p events hp
  | step _ hstep ih => exact stepKeepsInvariant _ _ ih hstep

theorem writeReg_params (s : State) (v : Word) (r : Reg) : (s.writeReg v r).params = s.params := by
  cases r <;> rfl

theorem writeElem_params (s : State) (i : Nat) (v : Word) (sp : Space) :
    (s.writeElem i v sp).params = s.params := by
  cases sp <;> rfl

/-- Settles O6: no command's row holds the parameters, and no access reaches them. -/
theorem stepKeepsParameters : Obligations.StepKeepsParameters := by
  intro s t h
  cases stepResult_of_step h with
  | idle => rfl
  | reset => rfl
  | read => rfl
  | @write _ _ v _ target =>
    cases target with
    | reg r => exact writeReg_params _ v r
    | elem sp i => exact writeElem_params _ i v sp
  | command => exact (regFrame_params (commandEnd_regFrame _ _)).trans (writeReg_params _ _ .cmd)

/-- Settles O13. -/
theorem commandsWriteOnlyTheirPlaces : Obligations.CommandsWriteOnlyTheirPlaces := by
  intro i s t h
  rw [← exec_eq_next_iff.1 h]
  exact ⟨commandEnd_regFrame i s, commandEnd_ramFrame i s⟩

theorem State.hasDiag_eq_decide (s : State) : s.hasDiag = decide (s.diagcnt.toNat ≠ 0) := by
  rw [Bool.eq_iff_iff, State.hasDiag_iff, decide_eq_true_iff, ne_eq, ne_eq, ← BitVec.toNat_inj]
  rfl

/-- Settles O14: the flag a command's end writes is that of the log its body leaves. -/
theorem decodeFaultFlagRule : Obligations.DecodeFaultFlagRule := by
  intro i s t h
  obtain ⟨u, c, _, he⟩ := commandEnd_endsWithBody i s
  rw [exec_eq_next_iff.1 h] at he
  rw [he, State.endCommand_status, statusBits_df, State.endCommand_diagcnt, ← u.hasDiag_eq_decide]
  cases i <;> rfl

/-- The zone table in the order of its zones (R160). -/
theorem sectorsPerTrack_eq_zones (t : Byte) : sectorsPerTrack t =
    if t.toNat ≤ 17 then 20 else if t.toNat ≤ 24 then 18 else if t.toNat ≤ 30 then 17 else 16 := by
  unfold sectorsPerTrack
  split_ifs <;> omega

/-- Settles O36. -/
theorem rlsweepFindsEverySlot : Obligations.RlsweepFindsEverySlot := by
  intro s total header
  have htotal : sectorsPerTrack s.trk = total := sectorsPerTrack_eq_zones s.trk
  refine ⟨rlsweep s, exec_eq_commandEnd .rlsweep s, htotal ▸ rlsweep_nslot s, fun i => ?_, rfl,
    commandEnd_regFrame .rlsweep s, commandEnd_ramFrame .rlsweep s⟩
  rw [rlsweep_pt]
  refine ⟨fun hi p hp => ?_, fun hi hnone => ?_, fun hi => ?_⟩
  · have hslot := (s.slotPos_eq_some_iff i p).2 ⟨htotal ▸ hi, hp⟩
    have := State.room_lt (State.slotPos_bound hslot)
    rw [hslot, posWord_some_toInt (by omega)]
  · rw [(s.slotPos_eq_none_iff i).2 fun _ => hnone, posWord_none_toInt]
  · rw [(s.slotPos_eq_none_iff i).2 fun hle => absurd hle (by omega), posWord_none_toInt]

/-- Settles O37: the entries are those of the strictly ascending list of found slots. -/
theorem rlsweepSortsFoundSlots : Obligations.RlsweepSortsFoundSlots := by
  intro s ho
  refine ⟨rlsweep s, exec_eq_commandEnd .rlsweep s, ?_⟩
  rw [rlsweep_nslot, rlsweep_nfound]
  have hlen := s.foundSlots_length_le
  have hslots := sectorsPerTrack_le s.trk
  refine ⟨hlen, fun i j hij hj => ?_, fun i hi => ?_, fun sl hsl => ?_, fun i hi => ?_⟩
  · obtain ⟨_, hposi, _⟩ := rlsweep_found (s := s) (i := i) (by omega)
    obtain ⟨_, hposj, _⟩ := rlsweep_found (s := s) (i := j) hj
    rw [hposi, hposj]
    exact List.pairwise_iff_getElem.1 (State.foundSlots_pairwise_lt ho) i j (by omega) hj hij
  · obtain ⟨hslot, hle, hroom⟩ := State.foundSlots_getElem hi
    obtain ⟨hpos, _, hsec⟩ := rlsweep_found hi
    have := State.room_lt hroom
    refine ⟨⟨s.foundSlots[i.val].2, by omega⟩, Nat.lt_succ_of_le hle, hsec, ?_, ?_⟩
    · rw [rlsweep_pt, hpos]
      exact congrArg posWord hslot
    · rw [hpos, posWord_some_toInt (by omega)]
      omega
  · cases hslot : s.slotPos sl.val with
    | none => exact absurd (by rw [rlsweep_pt, hslot, posWord_none_toInt]) hsl
    | some p =>
      obtain ⟨k, hk, he⟩ := List.getElem_of_mem ((s.mem_foundSlots p sl.val).2 hslot)
      refine ⟨⟨k, by omega⟩, hk, ?_⟩
      obtain ⟨_, _, hsec⟩ := rlsweep_found (s := s) (i := ⟨k, by omega⟩) hk
      rw [hsec]
      exact congrArg Prod.snd he
  · obtain ⟨hpos, hsec⟩ := rlsweep_not_found hi
    rw [hpos, posWord_none_toInt]
    exact ⟨rfl, hsec⟩

/-- The lengths of a delivered payload (R33, R199). -/
theorem putPayload_bounds (s : State) {r : List Byte} (hr : r.length ≤ 388)
    (heven : r.length % 2 = 0) :
    let t := s.putPayload r
    t.olen.toNat ≤ t.rawlen.toNat ∧ t.olen.toNat ≤ 384 ∧ t.rawlen.toNat ≤ 388 ∧
      t.rawlen.toNat % 2 = 0 := by
  have htrailer : rlTrailer = 4 := rfl
  dsimp only
  rw [State.putPayload_olen, State.putPayload_rawlen, BitVec.toNat_ofNat, BitVec.toNat_ofNat]
  omega

/-- Settles O43, command by command. -/
theorem resultBoundsAfterCommands : Obligations.ResultBoundsAfterCommands := by
  intro s t
  simp only [exec_eq_next_iff, commandEnd]
  refine ⟨?_, ?_, ?_, ?_⟩
  · rintro (rfl | ⟨rfl, hcode⟩)
    · obtain ⟨r, hr, heven, he⟩ := unscr_eq s
      exact he ▸ putPayload_bounds s hr heven
    · rcases rlpay_cases s with he | he | ⟨r, hr, heven, he⟩
      · exact absurd (congrArg State.code he) hcode
      · simp [he]
      · exact he ▸ putPayload_bounds s hr heven
  · rintro rfl hwlen
    rcases gcrdec_cases s with ⟨_, he⟩ | ⟨d, hb, hn, hr, he⟩
    · simp [he]
    · obtain ⟨holen, hnlen, hdiag⟩ := s.putDecoded_counts (d := d) (by omega) (by omega) (by omega)
      simp only [he, State.endCommand_olen, State.endCommand_nlen, State.endCommand_diagcnt]
      omega
  · rintro rfl
    obtain ⟨c, u, hu, he⟩ := rdsec_eq s
    rw [he]
    exact ⟨hu.diagcnt_le, hu.nlen_le, hu.olen_le⟩
  · rintro rfl
    have hpos : (rlfind s).pos = posWord (s.findFirst s.hdr) := rfl
    have htblen : (rlfind s).tblen = s.tblen := rfl
    rw [hpos, htblen]
    cases hf : s.findFirst s.hdr with
    | none => exact .inl posWord_none_toInt
    | some p =>
      have hroom := State.findFirst_bound hf
      have := State.room_lt hroom
      rw [posWord_some_toInt (by omega)]
      omega

/-- Settles O1. -/
theorem resetLeavesSpecValues : Obligations.ResetLeavesSpecValues := by
  refine ⟨by decide, by decide, by decide, by decide, fun r i => ?_, fun i => rfl⟩
  cases r <;> rfl

/-- Every byte decodes to a well-formed command: only those from 0x0B on are illegal (R93). -/
theorem decodeOp_wellFormed (op : Byte) : (decodeOp op).wellFormed = true := by
  unfold decodeOp
  split
  case h_12 =>
    simp only [Instr.wellFormed, decide_eq_true_eq, imp_false] at *
    omega
  all_goals rfl

/-- Settles O7. -/
theorem stepRunsDecodedCommand : Obligations.StepRunsDecodedCommand := by
  intro s v rest hbase hp i hi
  obtain ⟨rfl, _⟩ := Prod.mk.inj (Except.ok.inj hi)
  have hbits : v.setWidth 8 = v.extractLsb' 0 8 := by
    apply BitVec.eq_of_toNat_eq
    simp
  refine ⟨decodeOp_wellFormed _, ?_⟩
  rw [step_of_write_cmd hp (resolve_reg hbase .cmd), State.writeReg, hbits]

end Sys2Proof.Machine

namespace Sys2Proof.Machine

/-! ## What the host's next access does (20_memory.md R61, R62, R63; 44_control.md R222) -/

/-- A read that the map answers records its word and changes nothing of the block (R62). -/
theorem step_of_read {s : State} {width addr : Nat} {rest : List HostEvent} {target : Target}
    (hp : s.pending = .read width addr :: rest)
    (hr : resolve s.params width addr = .ok target) :
    step s = .next { s with pending := rest, replies := s.readTarget target :: s.replies } := by
  simp [step, nextAction, hp, hr]

/-- A write that the map takes to another target than `CMD` starts no command (R62). -/
theorem step_of_write {s : State} {width addr : Nat} {v : Word} {rest : List HostEvent}
    {target : Target} (hp : s.pending = .write width addr v :: rest)
    (hr : resolve s.params width addr = .ok target) (hne : target ≠ .reg .cmd) :
    step s = .next (({ s with pending := rest }).writeTarget v target) := by
  simp [step, nextAction, hp, hr]

theorem step_of_read_refused {s : State} {width addr : Nat} {rest : List HostEvent} {r : Refusal}
    (hp : s.pending = .read width addr :: rest) (hr : resolve s.params width addr = .error r) :
    step s = .refused r := by
  simp [step, nextAction, hp, hr]

theorem step_of_write_refused {s : State} {width addr : Nat} {v : Word} {rest : List HostEvent}
    {r : Refusal} (hp : s.pending = .write width addr v :: rest)
    (hr : resolve s.params width addr = .error r) : step s = .refused r := by
  simp [step, nextAction, hp, hr]

theorem step_of_outside {s : State} {sp : Space} {i : Nat} {rest : List HostEvent}
    (hp : s.pending = .outside sp i :: rest) : step s = .refused (.unmappedElement sp i) := by
  simp [step, nextAction, hp]

/-- A read at a register's offset answers the register (R61, R62). -/
theorem step_read_reg {s : State} {rest : List HostEvent} (hbase : s.params.gdbBase % 4 = 0)
    (r : Reg) (hp : s.pending = .read 32 (s.params.gdbBase + regOffset r) :: rest) :
    step s = .next { s with pending := rest, replies := s.readReg r :: s.replies } :=
  step_of_read hp (resolve_reg hbase r)

/-- A read at an element's offset answers the element (R61, R62, R222). -/
theorem step_read_elem {s : State} {rest : List HostEvent} (hbase : s.params.gdbBase % 4 = 0)
    {sp : Space} {i : Nat} (hi : i < spaceCount sp)
    (hp : s.pending = .read 32 (s.params.gdbBase + (spaceBase sp + 4 * i)) :: rest) :
    step s = .next { s with pending := rest, replies := s.readElem i sp :: s.replies } :=
  step_of_read (target := .elem sp i) hp (Nat.add_assoc .. ▸ resolve_elem hbase hi)

/-- The word of a table's element is the element: its index lies in the table. -/
theorem getD_getElem?_fin {α : Type} {n : Nat} (t : Vector α n) (i : Fin n) (d : α) :
    t[i.val]?.getD d = t[i] := by
  simp

/-- Settles O45, by what a read at a register's and at an element's offset does. -/
theorem hostReadAnswersAndChangesNothing : Obligations.HostReadAnswersAndChangesNothing := by
  intro s rest hbase answers
  have reg (r : Reg) : answers (regOffset r) (s.readReg r) := step_read_reg hbase r
  have elem (sp : Space) (i : Nat) (hi : i < spaceCount sp) :
      answers (spaceBase sp + 4 * i) (s.readElem i sp) := step_read_elem hbase hi
  refine ⟨⟨reg .cmd, reg .status, reg .tblen, reg .cur, reg .trk, reg .sec, reg .cnt, reg .wlen,
    reg .spanStart, reg .spanEnd, reg .pos, reg .olen, reg .rawlen, reg .nlen, reg .diagcnt,
    reg .bitv, reg .nfound, reg .nslot⟩, fun i => ?_, fun i => ?_, fun i => ?_, fun i => ?_,
    fun i => ?_, elem .wb, elem .ob, elem .nb, elem .diag, elem .tb⟩
  · exact getD_getElem?_fin s.hdr i 0#8 ▸ elem .hdr i i.isLt
  · exact getD_getElem?_fin s.sh i 0#8 ▸ elem .sh i i.isLt
  · exact getD_getElem?_fin s.pt i 0#32 ▸ elem .pt i i.isLt
  · exact getD_getElem?_fin s.ordsec i 0#8 ▸ elem .ordsec i i.isLt
  · exact getD_getElem?_fin s.ordpos i 0#32 ▸ elem .ordpos i i.isLt

/-! ## Host writes -/

/-- The low bits of a written word (R62). -/
theorem setWidth_eq_lowBits (v : Word) {w : Nat} : v.setWidth w = v.extractLsb' 0 w := by
  apply BitVec.eq_of_toNat_eq
  simp

/-- A write at another register's offset than that of `CMD` (R61, R62). -/
theorem step_write_reg {s : State} {v : Word} {rest : List HostEvent} {r : Reg}
    (hbase : s.params.gdbBase % 4 = 0)
    (hp : s.pending = .write 32 (s.params.gdbBase + regOffset r) v :: rest) (hr : r ≠ .cmd) :
    step s = .next (({ s with pending := rest }).writeReg v r) :=
  step_of_write hp (resolve_reg hbase r) fun he => hr (Target.reg.inj he)

/-- A write at an element's offset (R61, R62, R222). -/
theorem step_write_elem {s : State} {v : Word} {rest : List HostEvent} {sp : Space} {i : Nat}
    (hbase : s.params.gdbBase % 4 = 0) (hi : i < spaceCount sp)
    (hp : s.pending = .write 32 (s.params.gdbBase + spaceBase sp + 4 * i) v :: rest) :
    step s = .next (({ s with pending := rest }).writeElem i v sp) :=
  step_of_write hp (resolve_elem hbase hi) Target.noConfusion

/-- No register write reaches the RAM buffers (R62). -/
theorem writeReg_ramSame (s : State) (v : Word) (r : Reg) : ramSame s (s.writeReg v r) := by
  cases r <;> exact ramSame_of_buffers_eq rfl rfl rfl

/-- A written cursor is clamped to `LIMIT` (R27, R62). -/
theorem writeReg_cur_toNat (s : State) (v : Word) :
    (s.writeReg v .cur).cur.toNat = min (v.setWidth 19).toNat s.limit :=
  s.setCur_toNat (Nat.min_le_right _ _)

/-- A written work length is clamped to `WBMAX` (R30, R62). -/
theorem writeReg_wlen_toNat (s : State) (v : Word) :
    (s.writeReg v .wlen).wlen.toNat = min (v.setWidth 16).toNat 1024 := by
  show (BitVec.ofNat 11 (min (v.setWidth 16).toNat 1024)).toNat = _
  rw [BitVec.toNat_ofNat]
  omega

/-- Settles O46, register by register. -/
theorem hostRegisterWrites : Obligations.HostRegisterWrites := by
  intro s v rest r hbase hp hr
  refine ⟨_, step_write_reg hbase hp hr, writeReg_ramSame { s with pending := rest } v r, ?_⟩
  simp only [← setWidth_eq_lowBits]
  cases r
  case cmd => exact absurd rfl hr
  case cur => exact ⟨rfl, writeReg_cur_toNat { s with pending := rest } v⟩
  case wlen => exact ⟨rfl, writeReg_wlen_toNat { s with pending := rest } v⟩
  all_goals rfl

/-- A write of one element of a byte-wide buffer: the element reads as the byte, and no other RAM
element changes (R62). -/
theorem ramByte_of_write {s t : State} {r : Config.ByteRam} {i : Nat} {b : Byte}
    (hram : ∀ q, t.ram q = if q = r then (s.ram r).write i b else s.ram q)
    (hdiag : t.diag = s.diag) (hepoch : t.ramEpoch = s.ramEpoch) :
    t.ramByte r i = b ∧ ramSameExcept (fun q j => q = r ∧ j = i) (fun _ => False) s t := by
  refine ⟨?_, fun q j hj => ?_, fun j _ => ?_⟩
  · rw [State.ramByte, hram, if_pos rfl, Memory.get?_write_same, Option.getD_some]
  · rw [State.ramByte, State.ramByte, hram, hepoch]
    by_cases hq : q = r
    · rw [if_pos hq, Memory.get?_write_other (fun he => hj ⟨hq, he⟩), hq]
    · rw [if_neg hq]
  · rw [State.diagAt, State.diagAt, hdiag, hepoch]

/-- Settles O47: `WB` and `TB` take the write, every other space ignores it. -/
theorem hostElementWrites : Obligations.HostElementWrites := by
  intro s v rest sp i hbase hi hp
  refine ⟨_, step_write_elem hbase hi hp, ?_⟩
  rw [← setWidth_eq_lowBits]
  cases sp
  case wb => exact ⟨rfl, ramByte_of_write (r := .wb) (fun q => by cases q <;> rfl) rfl rfl⟩
  case tb => exact ⟨rfl, ramByte_of_write (r := .tb) (fun q => by cases q <;> rfl) rfl rfl⟩
  all_goals exact ⟨rfl, ramSame_of_buffers_eq rfl rfl rfl⟩

/-! ## Refused accesses -/

/-- The next event is a read or a write of `width` bits at `addr`. -/
def State.nextAccess (s : State) (width addr : Nat) (rest : List HostEvent) : Prop :=
  s.pending = .read width addr :: rest ∨ ∃ v, s.pending = .write width addr v :: rest

/-- An access is refused exactly when its address has no target (R63). -/
theorem step_refused_of_access_iff {s : State} {width addr : Nat} {rest : List HostEvent}
    (h : s.nextAccess width addr rest) :
    (∃ r, step s = .refused r) ↔ ¬ ∃ t, resolve s.params width addr = .ok t := by
  cases hr : resolve s.params width addr with
  | error r =>
    rcases h with hp | ⟨v, hp⟩
    · simp [step_of_read_refused hp hr]
    · simp [step_of_write_refused hp hr]
  | ok t =>
    rcases h with hp | ⟨v, hp⟩
    · simp [step_of_read hp hr]
    · by_cases hc : t = .reg .cmd
      · simp [step_of_write_cmd hp (hc ▸ hr), exec_eq_commandEnd]
      · simp [step_of_write hp hr hc]

/-- A step is refused only for an access of the host (R63, R222, R247). -/
theorem nextEvent_of_step_refused {s : State} {r : Refusal} (h : step s = .refused r) :
    (∃ width addr rest, s.nextAccess width addr rest) ∨
      ∃ sp i rest, s.pending = .outside sp i :: rest := by
  cases hp : s.pending with
  | nil => simp [step, nextAction, hp] at h
  | cons event rest =>
    cases event with
    | read width addr => exact .inl ⟨width, addr, rest, .inl hp⟩
    | write width addr v => exact .inl ⟨width, addr, rest, .inr ⟨v, hp⟩⟩
    | outside sp i => exact .inr ⟨sp, i, rest, rfl⟩
    | reset => simp [step, nextAction, hp] at h

/-- Settles O48: an access is refused exactly when it has no target, and the accesses with a target
are those of `resolve_ok_iff`. -/
theorem onlyUnmappedAccessesAreRefused : Obligations.OnlyUnmappedAccessesAreRefused := by
  intro s hbase
  simp only [← resolve_ok_iff hbase]
  constructor
  · rintro ⟨r, h⟩
    refine (nextEvent_of_step_refused h).imp_left ?_
    rintro ⟨width, addr, rest, ha⟩
    exact ⟨width, addr, rest, ha, (step_refused_of_access_iff ha).1 ⟨r, h⟩⟩
  · rintro (⟨width, addr, rest, ha, hno⟩ | ⟨sp, i, rest, hp⟩)
    · exact (step_refused_of_access_iff ha).2 hno
    · exact ⟨_, step_of_outside hp⟩

/-- Settles O50: `regOffset`, `spaceBase` and `spaceCount` case by case. -/
theorem hostMapOffsets : Obligations.HostMapOffsets := by
  refine ⟨?_, ?_, ?_⟩ <;> decide

end Sys2Proof.Machine

namespace Sys2Proof.Machine

/-! ## What two states that agree on the valid data read alike (20_memory.md R64) -/

/-- The state with the RAM contents of another (R64). -/
def State.withRam (s m : State) : State :=
  { s with tb := m.tb, wb := m.wb, ob := m.ob, nb := m.nb, diag := m.diag, ramEpoch := m.ramEpoch }

theorem sameButRam_iff {s s' : State} : sameButRam s s' ↔ s' = s.withRam s' := Iff.rfl

/-- What no RAM buffer enters is the same in two states that differ in RAM only. -/
theorem sameButRam.eq_of_blind {α : Type} {s s' : State} (h : sameButRam s s') (f : State → α)
    (hf : ∀ m, f (s.withRam m) = f s) : f s' = f s := by
  rw [sameButRam_iff.1 h, hf]

namespace agreeOnValid

variable {s s' : State} (h : agreeOnValid s s')
include h

theorem tblen_eq : s'.tblen = s.tblen := h.1.eq_of_blind State.tblen fun _ => rfl
theorem limit_eq : s'.limit = s.limit := h.1.eq_of_blind State.limit fun _ => rfl
theorem cur_eq : s'.cur = s.cur := h.1.eq_of_blind State.cur fun _ => rfl
theorem trk_eq : s'.trk = s.trk := h.1.eq_of_blind State.trk fun _ => rfl
theorem sec_eq : s'.sec = s.sec := h.1.eq_of_blind State.sec fun _ => rfl
theorem cnt_eq : s'.cnt = s.cnt := h.1.eq_of_blind State.cnt fun _ => rfl
theorem wlen_eq : s'.wlen = s.wlen := h.1.eq_of_blind State.wlen fun _ => rfl
theorem spanStart_eq : s'.spanStart = s.spanStart := h.1.eq_of_blind State.spanStart fun _ => rfl
theorem spanEnd_eq : s'.spanEnd = s.spanEnd := h.1.eq_of_blind State.spanEnd fun _ => rfl
theorem diagcnt_eq : s'.diagcnt = s.diagcnt := h.1.eq_of_blind State.diagcnt fun _ => rfl
theorem hdr_eq : s'.hdr = s.hdr := h.1.eq_of_blind State.hdr fun _ => rfl
theorem params_eq : s'.params = s.params := h.1.eq_of_blind State.params fun _ => rfl

theorem tbByte_eq {i : Nat} (hi : i < s.tblen.toNat) : s'.tbByte i = s.tbByte i := h.2.1 i hi

theorem wbByte_eq {i : Nat} (hi : i < s.wlen.toNat) : s'.wbByte i = s.wbByte i := h.2.2 i hi

/-- The stream below `LIMIT` lies in `TB[0..TBLEN)` (R130). -/
theorem tbBit_eq {k : Nat} (hk : k < s.limit) : s'.tbBit k = s.tbBit k := by
  have hbyte : k / 8 < s.tblen.toNat := by
    unfold State.limit at hk
    omega
  rw [State.tbBit, State.tbBit, h.tbByte_eq hbyte]

theorem streamBytes_eq {c n : Nat} (hn : n = 0 ∨ c + 8 * n ≤ s.limit) :
    s'.streamBytes c n = s.streamBytes c n := by
  refine List.map_congr_left fun j hj => State.streamByte_congr fun b hb => ?_
  have hlt : j < n := List.mem_range.1 hj
  exact h.tbBit_eq (by omega)

theorem wbBytes_eq {n : Nat} (hn : n ≤ s.wlen.toNat) : s'.wbBytes n = s.wbBytes n :=
  List.map_congr_left fun j hj => h.wbByte_eq (by have := List.mem_range.1 hj; omega)

theorem tbSpan_eq {a b : Nat} (hb : b ≤ s.tblen.toNat) : s'.tbSpan a b = s.tbSpan a b :=
  List.map_congr_left fun j hj => h.tbByte_eq (by have := List.mem_range'_1.1 hj; omega)

/-- A decode of work bytes that are valid (R115). -/
theorem gcrDecode_eq {n : Nat} (hn : n ≤ s.wlen.toNat) (phase : Bool) :
    gcrDecode s'.params.gcrTable phase (s'.wbBytes n) =
      gcrDecode s.params.gcrTable phase (s.wbBytes n) := by
  rw [h.params_eq, h.wbBytes_eq hn]

/-- The literal scan tries only positions whose seven bytes lie in `TB[0..TBLEN)` (R165). -/
theorem findFirst_eq (v : Vector Byte 7) : s'.findFirst v = s.findFirst v := by
  have hl : rlHdrLen - 1 = 6 := rfl
  unfold State.findFirst
  rw [h.tblen_eq, hl]
  refine List.find?_congr fun p hp => ?_
  have hlt := List.mem_range.1 hp
  rw [Bool.eq_iff_iff, State.headerAt_iff, State.headerAt_iff]
  exact forall_congr' fun j => by rw [h.tbByte_eq (by omega)]

theorem slotPos_eq (i : Nat) : s'.slotPos i = s.slotPos i := by
  rw [State.slotPos, State.slotPos, h.trk_eq, h.params_eq, h.findFirst_eq]

theorem foundSlots_eq : s'.foundSlots = s.foundSlots := by
  simp only [State.foundSlots, h.trk_eq, h.slotPos_eq]

/-- The marker search of a legal span reads inside it (R191). -/
theorem findMarker_eq {st e : Nat} (he : e ≤ s.tblen.toNat) :
    s'.findMarker st e = s.findMarker st e := by
  refine List.find?_congr fun p hp => ?_
  obtain ⟨_, hend⟩ := (mem_markerRange st e p).1 hp
  rw [State.markerAt, State.markerAt, h.tbByte_eq (by omega), h.tbByte_eq (by omega)]

end agreeOnValid

/-- A sync search reads only the bits it has left (R134). -/
theorem syncScan_congr {bit bit' : Nat → Bool} (fuel : Nat) : ∀ cur ones,
    (∀ k, k < cur + fuel → bit' k = bit k) →
      syncScan bit' fuel cur ones = syncScan bit fuel cur ones := by
  induction fuel with
  | zero => exact fun _ _ _ => rfl
  | succ fuel ih =>
    intro cur ones hbit
    have hrest : ∀ k, k < cur + 1 + fuel → bit' k = bit k := fun k hk => hbit k (by omega)
    rw [syncScan, syncScan, hbit cur (by omega), ih _ _ hrest, ih _ _ hrest]

/-- Both states search alike: the cursor goes to the same place, with the same outcome (R134). -/
theorem agreeOnValid.findSync_eq {s s' : State} (h : agreeOnValid s s') : ∃ n,
    findSync s = .done (s.setCur n) ∧ findSync s' = .done (s'.setCur n) ∨
    findSync s = .failed .eSync (s.setCur n) ∧ findSync s' = .failed .eSync (s'.setCur n) := by
  have hscan : syncScan s'.tbBit (s.limit - s.cur.toNat) s.cur.toNat 0 =
      syncScan s.tbBit (s.limit - s.cur.toNat) s.cur.toNat 0 := by
    by_cases hle : s.cur.toNat ≤ s.limit
    · exact syncScan_congr _ _ _ fun k hk => h.tbBit_eq (by omega)
    · rw [Nat.sub_eq_zero_of_le (by omega)]
      rfl
  unfold findSync
  rw [h.limit_eq, h.cur_eq, hscan]
  generalize syncScan s.tbBit (s.limit - s.cur.toNat) s.cur.toNat 0 = r
  refine ⟨r.2, ?_⟩
  cases hr : r.1
  · exact .inr ⟨by simp [hr], by simp [hr]⟩
  · exact .inl ⟨by simp [hr], by simp [hr]⟩

/-- Both states read the same bytes, or both end at `LIMIT` (R133). -/
theorem agreeOnValid.readBytes_eq {s s' : State} (h : agreeOnValid s s') (n : Nat) :
    (∃ bs m, bs.length = n ∧ readBytes n s = .done ((s.putWork bs).setCur m) ∧
      readBytes n s' = .done ((s'.putWork bs).setCur m)) ∨
    ∃ m, readBytes n s = .failed .eShort (s.setCur m) ∧
      readBytes n s' = .failed .eShort (s'.setCur m) := by
  unfold readBytes
  rw [h.limit_eq, h.cur_eq]
  by_cases hn : s.limit - s.cur.toNat < 8 * n
  · exact .inr ⟨s.limit, if_pos hn, if_pos hn⟩
  · rw [h.streamBytes_eq (by omega)]
    exact .inl ⟨_, _, s.streamBytes_length _ _, if_neg hn, if_neg hn⟩

end Sys2Proof.Machine

namespace Sys2Proof.Machine

/-! ## Updates of two states that agree on the valid data (20_memory.md R64) -/

/-- An update that takes nothing from RAM and leaves the valid data and its lengths alone. -/
structure KeepsValidData (f : State → State) : Prop where
  blind : ∀ s m, sameButRam (f s) (f (s.withRam m))
  tb : ∀ s, (f s).tblen = s.tblen ∧ (f s).tbByte = s.tbByte
  wb : ∀ s, (f s).wlen = s.wlen ∧ (f s).wbByte = s.wbByte

namespace KeepsValidData

/-- After such an update of both, two states still agree. -/
theorem agree {f : State → State} (hf : KeepsValidData f) {s s' : State} (h : agreeOnValid s s') :
    agreeOnValid (f s) (f s') := by
  obtain ⟨hram, htb, hwb⟩ := h
  refine ⟨?_, ?_, ?_⟩
  · have hblind := hf.blind s s'
    rwa [← sameButRam_iff.1 hram] at hblind
  · rwa [(hf.tb s).1, (hf.tb s).2, (hf.tb s').2]
  · rwa [(hf.wb s).1, (hf.wb s).2, (hf.wb s').2]

theorem comp {f g : State → State} (hg : KeepsValidData g) (hf : KeepsValidData f) :
    KeepsValidData (fun s => g (f s)) where
  blind s m := by
    have hblind := hg.blind (f s) (f (s.withRam m))
    rwa [← sameButRam_iff.1 (hf.blind s m)] at hblind
  tb s := ⟨(hg.tb _).1.trans (hf.tb s).1, (hg.tb _).2.trans (hf.tb s).2⟩
  wb s := ⟨(hg.wb _).1.trans (hf.wb s).1, (hg.wb _).2.trans (hf.wb s).2⟩

theorem setCur (n : Nat) : KeepsValidData (·.setCur n) :=
  ⟨fun _ _ => rfl, fun _ => ⟨rfl, rfl⟩, fun _ => ⟨rfl, rfl⟩⟩

theorem setBitv (b : Bool) : KeepsValidData (·.setBitv b) :=
  ⟨fun _ _ => rfl, fun _ => ⟨rfl, rfl⟩, fun _ => ⟨rfl, rfl⟩⟩

theorem clearDecode : KeepsValidData (·.clearDecode) :=
  ⟨fun _ _ => rfl, fun _ => ⟨rfl, rfl⟩, fun _ => ⟨rfl, rfl⟩⟩

theorem putOutput (bs : List Byte) : KeepsValidData (·.putOutput bs) :=
  ⟨fun _ _ => rfl, fun _ => ⟨rfl, rfl⟩, fun _ => ⟨rfl, rfl⟩⟩

theorem putNibbles (ns : List Byte) : KeepsValidData (·.putNibbles ns) :=
  ⟨fun _ _ => rfl, fun _ => ⟨rfl, rfl⟩, fun _ => ⟨rfl, rfl⟩⟩

theorem putDiag (d : Nat) (rs : List DiagWord) : KeepsValidData (·.putDiag d rs) :=
  ⟨fun _ _ => rfl, fun _ => ⟨rfl, rfl⟩, fun _ => ⟨rfl, rfl⟩⟩

theorem putDecoded (d : Decoded) : KeepsValidData (·.putDecoded d) :=
  (putDiag 0 d.records).comp ((putNibbles d.nibbles).comp (putOutput d.bytes))

theorem putSh (v : Vector Byte 8) : KeepsValidData (·.putSh v) :=
  ⟨fun _ _ => rfl, fun _ => ⟨rfl, rfl⟩, fun _ => ⟨rfl, rfl⟩⟩

theorem putHdr (v : Vector Byte 7) : KeepsValidData (·.putHdr v) :=
  ⟨fun _ _ => rfl, fun _ => ⟨rfl, rfl⟩, fun _ => ⟨rfl, rfl⟩⟩

theorem setPos (p : Word) : KeepsValidData (·.setPos p) :=
  ⟨fun _ _ => rfl, fun _ => ⟨rfl, rfl⟩, fun _ => ⟨rfl, rfl⟩⟩

theorem putSweep (slots found : Nat) (pt : Vector Word 21) (ordsec : Vector Byte 21)
    (ordpos : Vector Word 21) : KeepsValidData (·.putSweep slots found pt ordsec ordpos) :=
  ⟨fun _ _ => rfl, fun _ => ⟨rfl, rfl⟩, fun _ => ⟨rfl, rfl⟩⟩

theorem clearPayload : KeepsValidData (·.clearPayload) :=
  ⟨fun _ _ => rfl, fun _ => ⟨rfl, rfl⟩, fun _ => ⟨rfl, rfl⟩⟩

theorem putPayload (r : List Byte) : KeepsValidData (·.putPayload r) :=
  ⟨fun _ _ => rfl, fun _ => ⟨rfl, rfl⟩, fun _ => ⟨rfl, rfl⟩⟩

theorem endCommand (c : ResultCode) (df : Bool) : KeepsValidData (·.endCommand c df) :=
  ⟨fun _ _ => rfl, fun _ => ⟨rfl, rfl⟩, fun _ => ⟨rfl, rfl⟩⟩

/-- The end of `GCRDEC` and `RDSEC`: the flag is that of the log's count (R25). -/
theorem endCommand_hasDiag (c : ResultCode) :
    KeepsValidData (fun s => s.endCommand c s.hasDiag) :=
  ⟨fun _ _ => rfl, fun _ => ⟨rfl, rfl⟩, fun _ => ⟨rfl, rfl⟩⟩

end KeepsValidData

/-- Work bytes that are the same in both become valid data of both (R133). -/
theorem agreeOnValid.putWork {s s' : State} (h : agreeOnValid s s') (bs : List Byte) :
    agreeOnValid (s.putWork bs) (s'.putWork bs) := by
  refine ⟨?_, h.2.1, fun i hi => ?_⟩
  · rw [sameButRam_iff.1 h.1]
    rfl
  · have hlt : i < bs.length := hi.trans_le (ofNat_toNat_le 11 bs.length)
    rw [State.putWork_wbByte, State.putWork_wbByte, dif_pos hlt, dif_pos hlt]

/-! ## Results that two states hold alike (10_state.md R48) -/

/-- Two states that hold the same results of a decode: `OB`, `NB` and `DIAG` up to their counts
(R33, R34). -/
structure SameDecode (t t' : State) : Prop where
  ob : ∀ k, k < t.olen.toNat → t'.obByte k = t.obByte k
  nb : ∀ k, k < t.nlen.toNat → t'.nbByte k = t.nbByte k
  diag : ∀ k, k < t.diagcnt.toNat → t'.diagAt k = t.diagAt k

theorem SameDecode.clearDecode (s s' : State) : SameDecode s.clearDecode s'.clearDecode :=
  ⟨fun _ hk => absurd hk (Nat.not_lt_zero _), fun _ hk => absurd hk (Nat.not_lt_zero _),
    fun _ hk => absurd hk (Nat.not_lt_zero _)⟩

theorem putOutput_obByte_eq (s s' : State) (bs : List Byte) {k : Nat}
    (hk : k < (s.putOutput bs).olen.toNat) :
    (s'.putOutput bs).obByte k = (s.putOutput bs).obByte k := by
  have hlt : k < bs.length := hk.trans_le (ofNat_toNat_le 11 bs.length)
  rw [State.putOutput_obByte, State.putOutput_obByte, dif_pos hlt, dif_pos hlt]

theorem putNibbles_nbByte_eq (s s' : State) (ns : List Byte) {k : Nat}
    (hk : k < (s.putNibbles ns).nlen.toNat) :
    (s'.putNibbles ns).nbByte k = (s.putNibbles ns).nbByte k := by
  have hlt : k < ns.length := hk.trans_le (ofNat_toNat_le 12 ns.length)
  rw [State.putNibbles_nbByte, State.putNibbles_nbByte, dif_pos hlt, dif_pos hlt]

/-- Records appended to logs that agree so far (R115). -/
theorem putDiag_diagAt_eq {s s' : State} {d : Nat} (h : ∀ k, k < d → s'.diagAt k = s.diagAt k)
    (rs : List DiagWord) {k : Nat} (hk : k < (s.putDiag d rs).diagcnt.toNat) :
    (s'.putDiag d rs).diagAt k = (s.putDiag d rs).diagAt k := by
  have hlt : k < d + rs.length := hk.trans_le (ofNat_toNat_le 12 _)
  rw [State.putDiag_diagAt, State.putDiag_diagAt]
  by_cases hd : d ≤ k
  · have hi : k - d < rs.length := by omega
    rw [if_pos ⟨hd, hlt⟩, if_pos ⟨hd, hlt⟩, List.getElem?_eq_getElem hi, Option.getD_some,
      Option.getD_some]
  · rw [if_neg fun hc => hd hc.1, if_neg fun hc => hd hc.1, h k (by omega)]

theorem putPayload_obByte_eq (s s' : State) (r : List Byte) {k : Nat}
    (hk : k < (s.putPayload r).rawlen.toNat) :
    (s'.putPayload r).obByte k = (s.putPayload r).obByte k := by
  have hlt : k < r.length := hk.trans_le (ofNat_toNat_le 11 r.length)
  rw [State.putPayload_obByte, State.putPayload_obByte, dif_pos hlt, dif_pos hlt]

theorem SameDecode.putDecoded (s s' : State) (d : Decoded) :
    SameDecode (s.putDecoded d) (s'.putDecoded d) where
  ob _ hk := putOutput_obByte_eq s s' d.bytes hk
  nb _ hk := putNibbles_nbByte_eq (s.putOutput d.bytes) (s'.putOutput d.bytes) d.nibbles hk
  diag _ hk := putDiag_diagAt_eq (fun _ hlt => absurd hlt (Nat.not_lt_zero _)) d.records hk

end Sys2Proof.Machine

namespace Sys2Proof.Machine

/-! ## The steps of `RDSEC` in two states (41_bit_cursor_sync.md R136) -/

/-- Two states inside an `RDSEC` that agree on the valid data and on the results so far. -/
structure SectorAgree (t t' : State) : Prop where
  valid : agreeOnValid t t'
  results : SameDecode t t'

/-- A step does the same in two states: both are done, in states related by `D`, or both end the
command with one code. -/
def Stage.Agree (D : State → State → Prop) : Stage → Stage → Prop
  | .done s, .done s' => D s s'
  | .failed c s, .failed c' s' => c' = c ∧ SectorAgree s s'
  | _, _ => False

theorem Stage.agree_andThen {D D' : State → State → Prop} {st st' : Stage} {f : State → Stage}
    (h : st.Agree D st') (hf : ∀ s s', D s s' → (f s).Agree D' (f s')) :
    (st.andThen f).Agree D' (st'.andThen f) := by
  cases st <;> cases st'
  case done.done => exact hf _ _ h
  case failed.failed => exact h
  all_goals exact h.elim

theorem Stage.result_agree {st st' : Stage} (h : st.Agree SectorAgree st') :
    st'.result.1 = st.result.1 ∧ SectorAgree st.result.2 st'.result.2 := by
  cases st <;> cases st'
  case done.done => exact ⟨rfl, h⟩
  case failed.failed => exact h
  all_goals exact h.elim

/-- A sector read so far, with `n` bytes just read to `WB` (R136). -/
def SectorAgree.WithWork (n : Nat) (t t' : State) : Prop := SectorAgree t t' ∧ t.wlen.toNat = n

namespace SectorAgree

variable {s s' : State} (h : SectorAgree s s')
include h

theorem setCur (n : Nat) : SectorAgree (s.setCur n) (s'.setCur n) :=
  ⟨(KeepsValidData.setCur n).agree h.valid, ⟨h.results.ob, h.results.nb, h.results.diag⟩⟩

theorem putWork (bs : List Byte) : SectorAgree (s.putWork bs) (s'.putWork bs) :=
  ⟨h.valid.putWork bs, ⟨h.results.ob, h.results.nb, h.results.diag⟩⟩

theorem findSync : (findSync s).Agree SectorAgree (findSync s') := by
  obtain ⟨n, ⟨he, he'⟩ | ⟨he, he'⟩⟩ := h.valid.findSync_eq
  · rw [he, he']
    exact h.setCur n
  · rw [he, he']
    exact ⟨rfl, h.setCur n⟩

theorem readBytes {n : Nat} (hn : n < 2048) :
    (readBytes n s).Agree (WithWork n) (readBytes n s') := by
  rcases h.valid.readBytes_eq n with ⟨bs, m, hlen, he, he'⟩ | ⟨m, he, he'⟩
  · rw [he, he']
    refine ⟨(h.putWork bs).setCur m, ?_⟩
    rw [State.setCur_wlen, State.putWork_wlen, BitVec.toNat_ofNat, hlen]
    exact Nat.mod_eq_of_lt hn
  · rw [he, he']
    exact ⟨rfl, h.setCur m⟩

end SectorAgree

namespace SectorAgree.WithWork

variable {s s' : State}

theorem headerStage (h : WithWork hdrRaw s s') :
    (headerStage s).Agree SectorAgree (headerStage s') := by
  obtain ⟨⟨hvalid, hres⟩, hlen⟩ := h
  unfold Machine.headerStage
  rw [hvalid.gcrDecode_eq hlen.ge]
  generalize gcrDecode _ _ _ = d
  have hsh := (KeepsValidData.putSh (Vector.ofFn fun i => d.bytes.getD i.val 0#8)).agree hvalid
  refine ⟨(KeepsValidData.putDiag 0 d.records).agree
    ((KeepsValidData.putNibbles d.nibbles).agree hsh), ?_, fun k hk => ?_, fun k hk => ?_⟩
  · simpa using hres.ob
  · exact putNibbles_nbByte_eq _ _ d.nibbles hk
  · exact putDiag_diagAt_eq (fun _ hlt => absurd hlt (Nat.not_lt_zero _)) d.records hk

theorem dataStage (h : WithWork dataRaw s s') :
    (dataStage s).Agree SectorAgree (dataStage s') := by
  obtain ⟨⟨hvalid, hres⟩, hlen⟩ := h
  unfold Machine.dataStage
  rw [hvalid.gcrDecode_eq hlen.ge]
  generalize gcrDecode _ _ _ = d
  dsimp only [State.putNibbles_diagcnt]
  rw [hvalid.diagcnt_eq]
  refine ⟨((KeepsValidData.putOutput _).comp ((KeepsValidData.putDiag _ d.records).comp
    (KeepsValidData.putNibbles d.nibbles))).agree hvalid,
    fun k hk => ?_, fun k hk => ?_, fun k hk => ?_⟩
  · exact putOutput_obByte_eq _ _ _ hk
  · exact putNibbles_nbByte_eq _ _ d.nibbles hk
  · exact putDiag_diagAt_eq (s := s.putNibbles d.nibbles) (s' := s'.putNibbles d.nibbles) hres.diag
      d.records hk

end SectorAgree.WithWork

/-- The steps of `RDSEC` do the same in two states that agree on the valid data: the results are
cleared first, and each decode takes the bytes just read (R136). -/
theorem sectorStages_agree {s s' : State} (h : agreeOnValid s s') :
    (sectorStages s).Agree SectorAgree (sectorStages s') := by
  have hclear : SectorAgree s.clearDecode s'.clearDecode :=
    ⟨KeepsValidData.clearDecode.agree h, .clearDecode s s'⟩
  have hread := Stage.agree_andThen hclear.findSync
    fun _ _ ha => ha.readBytes (n := hdrRaw) (by decide)
  have hheader := Stage.agree_andThen hread fun _ _ => SectorAgree.WithWork.headerStage
  have hsync := Stage.agree_andThen hheader fun _ _ => SectorAgree.findSync
  have hdata := Stage.agree_andThen hsync fun _ _ ha => ha.readBytes (n := dataRaw) (by decide)
  exact Stage.agree_andThen hdata fun _ _ => SectorAgree.WithWork.dataStage

end Sys2Proof.Machine

namespace Sys2Proof.Machine

/-! ## Commands of two states that agree on the valid data (20_memory.md R64) -/

/-- The states a command ends in agree on the valid data and on the command's results (R64). -/
def EndsAlike (i : Instr) (t t' : State) : Prop := agreeOnValid t t' ∧ sameResults t t' i

section

variable {s s' : State} (h : agreeOnValid s s')
include h

theorem gcrdec_endsAlike : EndsAlike .gcrdec (gcrdec s) (gcrdec s') := by
  unfold EndsAlike gcrdec
  rw [h.wlen_eq, h.gcrDecode_eq (Nat.le_refl _)]
  generalize gcrDecode _ _ _ = d
  split
  · have hres := SameDecode.clearDecode s s'
    exact ⟨((KeepsValidData.endCommand .eFormat false).comp .clearDecode).agree h,
      hres.ob, hres.nb, hres.diag⟩
  · have hres := SameDecode.putDecoded s s' d
    exact ⟨((KeepsValidData.endCommand_hasDiag .ok).comp (.putDecoded d)).agree h,
      hres.ob, hres.nb, hres.diag⟩

theorem rdbit_endsAlike : EndsAlike .rdbit (rdbit s) (rdbit s') := by
  refine ⟨?_, trivial⟩
  unfold rdbit
  rw [h.limit_eq, h.cur_eq]
  split
  · exact (KeepsValidData.endCommand .eShort false).agree h
  · rw [h.tbBit_eq (by omega)]
    exact ((KeepsValidData.endCommand .ok false).comp ((KeepsValidData.setBitv _).comp
      (.setCur _))).agree h

theorem rdbytes_endsAlike : EndsAlike .rdbytes (rdbytes s) (rdbytes s') := by
  refine ⟨?_, trivial⟩
  unfold rdbytes
  rw [h.cnt_eq]
  split
  · exact (KeepsValidData.endCommand .eRange false).agree h
  · rcases h.readBytes_eq s.cnt.toNat with ⟨bs, m, _, he, he'⟩ | ⟨m, he, he'⟩
    · rw [he, he']
      exact ((KeepsValidData.endCommand .ok false).comp (.setCur m)).agree (h.putWork bs)
    · rw [he, he']
      exact ((KeepsValidData.endCommand .eShort false).comp (.setCur m)).agree h

theorem sync_endsAlike : EndsAlike .sync (sync s) (sync s') := by
  refine ⟨?_, trivial⟩
  unfold sync
  obtain ⟨n, ⟨he, he'⟩ | ⟨he, he'⟩⟩ := h.findSync_eq
  · rw [he, he']
    exact ((KeepsValidData.endCommand .ok false).comp (.setCur n)).agree h
  · rw [he, he']
    exact ((KeepsValidData.endCommand .eSync false).comp (.setCur n)).agree h

theorem rdsec_endsAlike : EndsAlike .rdsec (rdsec s) (rdsec s') := by
  obtain ⟨hcode, hvalid, hres⟩ := Stage.result_agree (sectorStages_agree h)
  unfold EndsAlike rdsec
  dsimp only
  rw [hcode]
  exact ⟨(KeepsValidData.endCommand_hasDiag _).agree hvalid, hres.ob, hres.nb, hres.diag⟩

theorem rlhdr_endsAlike : EndsAlike .rlhdr (rlhdr s) (rlhdr s') := by
  refine ⟨?_, trivial⟩
  unfold rlhdr
  rw [h.params_eq, h.trk_eq, h.sec_eq]
  exact ((KeepsValidData.endCommand .ok false).comp (.putHdr _)).agree h

theorem rlfind_endsAlike : EndsAlike .rlfind (rlfind s) (rlfind s') := by
  refine ⟨?_, trivial⟩
  unfold rlfind
  rw [h.hdr_eq, h.findFirst_eq]
  exact ((KeepsValidData.endCommand _ false).comp (.setPos _)).agree h

theorem rlsweep_endsAlike : EndsAlike .rlsweep (rlsweep s) (rlsweep s') := by
  refine ⟨?_, trivial⟩
  unfold rlsweep
  simp only [h.trk_eq, h.foundSlots_eq, h.slotPos_eq]
  exact ((KeepsValidData.endCommand .ok false).comp (.putSweep _ _ _ _ _)).agree h

/-- A payload delivered alike to both (R195, R196). -/
theorem putPayload_endsAlike (r : List Byte) :
    let t := s.putPayload r
    let t' := s'.putPayload r
    agreeOnValid (t.endCommand .ok false) (t'.endCommand .ok false) ∧
      ∀ k, k < t.rawlen.toNat → t'.obByte k = t.obByte k :=
  ⟨((KeepsValidData.endCommand .ok false).comp (.putPayload r)).agree h,
    fun _ hk => putPayload_obByte_eq s s' r hk⟩

theorem rlpay_endsAlike : EndsAlike .rlpay (rlpay s) (rlpay s') := by
  unfold EndsAlike rlpay
  rw [h.spanStart_eq, h.spanEnd_eq, h.tblen_eq]
  dsimp only
  split
  · exact ⟨(KeepsValidData.endCommand .eRange false).agree h,
      fun hcode => absurd (State.endCommand_code s .eRange false) hcode⟩
  · rw [h.findMarker_eq (by omega)]
    split
    · exact ⟨((KeepsValidData.endCommand .eNoMark false).comp .clearPayload).agree h,
        fun _ _ hk => absurd hk (Nat.not_lt_zero _)⟩
    · rw [h.tbSpan_eq (by omega)]
      exact (putPayload_endsAlike h _).imp_right fun hres _ => hres

theorem unscr_endsAlike : EndsAlike .unscr (unscr s) (unscr s') := by
  unfold EndsAlike unscr
  rw [h.wlen_eq, h.wbBytes_eq (Nat.min_le_left _ _)]
  exact (putPayload_endsAlike h _).imp_right fun hres _ => hres

theorem commandEnd_endsAlike (i : Instr) : EndsAlike i (commandEnd i s) (commandEnd i s') := by
  cases i with
  | nop => exact ⟨(KeepsValidData.endCommand .ok false).agree h, trivial⟩
  | gcrdec => exact gcrdec_endsAlike h
  | rdbit => exact rdbit_endsAlike h
  | rdbytes => exact rdbytes_endsAlike h
  | sync => exact sync_endsAlike h
  | rdsec => exact rdsec_endsAlike h
  | rlhdr => exact rlhdr_endsAlike h
  | rlfind => exact rlfind_endsAlike h
  | rlsweep => exact rlsweep_endsAlike h
  | rlpay => exact rlpay_endsAlike h
  | unscr => exact unscr_endsAlike h
  | illegal op => exact ⟨(KeepsValidData.endCommand .eBadCmd false).agree h, trivial⟩

end

/-- Settles O16, command by command: what a command takes from RAM is valid data, so both states
make the same updates. -/
theorem commandsReadOnlyValidData : Obligations.CommandsReadOnlyValidData := by
  intro i s s' t t' h ht ht'
  rw [← exec_eq_next_iff.1 ht, ← exec_eq_next_iff.1 ht']
  exact commandEnd_endsAlike h i

end Sys2Proof.Machine

namespace Sys2Proof.Machine

/-! ## Decoder and encoder (30_encoding.md R90, R91, R93) -/

theorem decode_cons (b : Byte) (rest : List Byte) :
    decode (b :: rest) = .ok (decodeOp b, rest) := rfl

/-- Every opcode from 0x0B on is illegal (R93). -/
theorem decodeOp_of_ge {op : Byte} (h : 0x0B ≤ op.toNat) : decodeOp op = .illegal op := by
  unfold decodeOp
  split
  case h_12 => rfl
  all_goals omega

/-- The opcode of a well-formed command decodes to the command: an illegal opcode is none of the
eleven bytes of the map (R91, R93). -/
theorem decodeOp_opcode {i : Instr} (h : i.wellFormed = true) : decodeOp (opcode i) = i := by
  cases i with
  | illegal op => exact decodeOp_of_ge (of_decide_eq_true h)
  | _ => rfl

/-- The command a byte decodes to has that byte as its opcode (R91, R93). -/
theorem opcode_decodeOp (op : Byte) : opcode (decodeOp op) = op := by
  unfold decodeOp
  split
  case h_12 => rfl
  all_goals exact BitVec.eq_of_toNat_eq (Eq.symm ‹_›)

/-- A well-formed command's byte decodes to it and leaves what follows (R90). -/
theorem decode_encode_append {i : Instr} (rest : List Byte) (h : i.wellFormed = true) :
    decode (encode i ++ rest) = .ok (i, rest) := by
  rw [encode, List.singleton_append, decode_cons, decodeOp_opcode h]

theorem encode_decodeOp (b : Byte) : encode (decodeOp b) = [b] := by
  rw [encode, opcode_decodeOp]

/-- Settles O10: `opcode` and `decodeOp` are inverse to each other on the well-formed commands, and
every byte decodes to one of these. -/
theorem decodeEncodeAgree : Obligations.DecodeEncodeAgree :=
  ⟨fun _ rest h => decode_encode_append rest h,
    fun b rest => ⟨decodeOp b, decode_cons b rest, decodeOp_wellFormed b, encode_decodeOp b⟩⟩

/-- Settles O9: each byte is the encoding of the command named beside it. -/
theorem opcodeBytesDecode : Obligations.OpcodeBytesDecode := by
  have byte (i : Instr) (h : i.wellFormed = true) : decode [opcode i] = .ok (i, []) :=
    decode_encode_append [] h
  exact ⟨byte .nop rfl, byte .gcrdec rfl, byte .rdbit rfl, byte .rdbytes rfl, byte .sync rfl,
    byte .rdsec rfl, byte .rlhdr rfl, byte .rlfind rfl, byte .rlsweep rfl, byte .rlpay rfl,
    byte .unscr rfl, byte (.illegal 0x0B#8) rfl, byte (.illegal 0xFF#8) rfl⟩

/-- An illegal opcode ends with `E_BADCMD`, number 7, and `DF` 0 (R93, R240). -/
theorem exec_illegal (op : Byte) (s : State) :
    exec (.illegal op) s = .next { s with status := 0b00111#5 } := exec_eq_commandEnd _ s

/-- Settles O12: a write of an opcode from 0x0B on runs the illegal command. -/
theorem illegalOpcodeReportsBadCommand : Obligations.IllegalOpcodeReportsBadCommand := by
  refine ⟨fun op s => ⟨_, exec_illegal op s, rfl, ramSame_of_buffers_eq rfl rfl rfl⟩, ?_⟩
  intro s v rest hbase hp hop
  have hstep := step_of_write_cmd hp (resolve_reg hbase .cmd)
  rw [State.writeReg, setWidth_eq_lowBits, decodeOp_of_ge hop, exec_illegal] at hstep
  exact ⟨_, hstep, rfl, ramSame_of_buffers_eq rfl rfl rfl⟩

end Sys2Proof.Machine

namespace Sys2Proof.Machine

/-! ## `LOADTRACK` (30_encoding.md R96; 70_reset_and_hazards.md R272) -/

/-- The word written for a byte stores the byte (R62, R96). -/
theorem writeElem_tb_byte (s : State) (i : Nat) (b : Byte) :
    s.writeElem i (b.setWidth 32) .tb = { s with tb := s.tb.write i b } := by
  rw [State.writeElem, BitVec.setWidth_setWidth_of_le b (by decide), BitVec.setWidth_eq]

/-- The writes of a byte list that fits `TB` from element `i` on put it there, one step for each
byte (R96). -/
theorem run_loadWrites_tb {s : State} {i : Nat} {bytes : List Byte} {rest : List HostEvent}
    (hbase : s.params.gdbBase % 4 = 0) (hfit : i + bytes.length ≤ spaceCount .tb)
    (hp : s.pending = loadWrites s.params .tb i bytes ++ rest) :
    core.run bytes.length s =
      .next { s with pending := rest, tb := s.tb.writeRange i bytes } := by
  induction bytes generalizing s i with
  | nil =>
    have hrest : s.pending = rest := hp
    subst hrest
    rfl
  | cons b bytes ih =>
    rw [List.length_cons] at hfit
    have hi : i < spaceCount .tb := by omega
    rw [loadWrites, elemWrite_of_lt _ _ hi, List.cons_append] at hp
    have hstep := step_write_elem hbase hi hp
    rw [writeElem_tb_byte] at hstep
    exact (run_succ (M := core) hstep bytes.length).trans
      (ih (i := i + 1) hbase (by omega) rfl)

/-- `LOADTRACK` runs in one step for each byte and one for `TBLEN` (R96). -/
theorem run_loadTrack {s : State} {bytes : List Byte} {rest : List HostEvent}
    (hbase : s.params.gdbBase % 4 = 0) (hfit : bytes.length ≤ 65535)
    (hp : s.pending = lineEvents s.params (.loadTrack bytes) ++ rest) :
    core.run (bytes.length + 1) s = .next (({ s with pending := rest }).loadTrack bytes) := by
  rw [lineEvents, List.append_assoc] at hp
  have hload := run_loadWrites_tb hbase (by rw [Nat.zero_add]; exact hfit) hp
  rw [run_add hload]
  refine run_succ (M := core) ?_ 0
  exact step_write_reg (r := .tblen) hbase rfl (by decide)

/-- `TB` after `LOADTRACK`: the bytes from element 0 on, and what it held behind them (R96). -/
theorem State.loadTrack_tbByte (s : State) (bytes : List Byte) (i : Nat) :
    (s.loadTrack bytes).tbByte i = if h : i < bytes.length then bytes[i] else s.tbByte i :=
  Memory.getD_writeRange_zero s.tb bytes i _

/-- The 16 bits of `TBLEN` hold the length of every track that fits `TB` (R26, R96). -/
theorem State.loadTrack_tblen (s : State) {bytes : List Byte} (h : bytes.length ≤ 65535) :
    (s.loadTrack bytes).tblen.toNat = bytes.length := by
  show ((BitVec.ofNat 32 bytes.length).setWidth 16).toNat = _
  rw [BitVec.toNat_setWidth, BitVec.toNat_ofNat]
  omega

/-- `LOADTRACK` reaches no RAM element but those of its bytes (R96). -/
theorem State.loadTrack_ram (s : State) (bytes : List Byte) :
    ramSameExcept (fun r i => r = .tb ∧ i < bytes.length) (fun _ => False) s
      (s.loadTrack bytes) := by
  refine ⟨fun r i hi => ?_, fun _ _ => rfl⟩
  cases r
  case tb => exact (s.loadTrack_tbByte bytes i).trans (dif_neg fun hlt => hi ⟨rfl, hlt⟩)
  all_goals rfl

/-- Settles O49: the run ends in `State.loadTrack`, whose fields the lemmas above give. -/
theorem loadtrackLoadsTheTrack : Obligations.LoadtrackLoadsTheTrack := by
  intro s bytes rest hbase hfit hp
  refine ⟨_, run_loadTrack hbase hfit hp, fun i hi => ?_, State.loadTrack_tblen _ hfit, rfl, rfl,
    State.loadTrack_ram { s with pending := rest } bytes⟩
  rw [State.loadTrack_tbByte, dif_pos hi, List.getElem?_eq_getElem hi]

end Sys2Proof.Machine

namespace Sys2Proof.Machine

/-! ## What `GCRDEC` delivers on whole groups (40_gcr_decode.md R112 to R116) -/

/-- The results of a decode stand in `t`: their counts, the elements of `OB`, `NB` and `DIAG`, and
`STATUS` with the code `OK` and `DF` set where a record was logged (R24, R25, R116). -/
structure Delivers (d : Decoded) (t : State) : Prop where
  olen : t.olen.toNat = d.bytes.length
  nlen : t.nlen.toNat = d.nibbles.length
  diagcnt : t.diagcnt.toNat = d.records.length
  ob : ∀ j, j < d.bytes.length → d.bytes[j]? = some (t.obByte j)
  nb : ∀ k, k < d.nibbles.length → d.nibbles[k]? = some (t.nbByte k)
  diag : ∀ i, i < d.records.length → d.records[i]? = some (t.diagAt i)
  status : t.status = if d.records = [] then 0b00000#5 else 0b10000#5

theorem State.putDecoded_obByte (s : State) (d : Decoded) {j : Nat} (hj : j < d.bytes.length) :
    (s.putDecoded d).obByte j = d.bytes[j] :=
  (s.putOutput_obByte d.bytes j).trans (dif_pos hj)

theorem State.putDecoded_nbByte (s : State) (d : Decoded) {k : Nat} (hk : k < d.nibbles.length) :
    (s.putDecoded d).nbByte k = d.nibbles[k] :=
  ((s.putOutput d.bytes).putNibbles_nbByte d.nibbles k).trans (dif_pos hk)

theorem State.putDecoded_diagAt (s : State) (d : Decoded) {i : Nat} (hi : i < d.records.length) :
    (s.putDecoded d).diagAt i = d.records[i] := by
  rw [State.putDecoded, State.putDiag_diagAt, if_pos ⟨Nat.zero_le i, by omega⟩, Nat.sub_zero,
    List.getElem?_eq_getElem hi, Option.getD_some]

/-- A decode whose results fit the buffers is delivered whole (R116). -/
theorem delivers_putDecoded (s : State) {d : Decoded} (hb : d.bytes.length < 2048)
    (hn : d.nibbles.length < 4096) (hr : d.records.length ≤ d.nibbles.length) :
    Delivers d ((s.putDecoded d).endCommand .ok (s.putDecoded d).hasDiag) := by
  obtain ⟨holen, hnlen, hdiag⟩ := s.putDecoded_counts hb hn hr
  refine ⟨holen, hnlen, hdiag, fun j hj => ?_, fun k hk => ?_, fun i hi => ?_, ?_⟩
  · rw [State.endCommand_obByte, s.putDecoded_obByte d hj, List.getElem?_eq_getElem]
  · rw [State.endCommand_nbByte, s.putDecoded_nbByte d hk, List.getElem?_eq_getElem]
  · rw [State.endCommand_diagAt, s.putDecoded_diagAt d hi, List.getElem?_eq_getElem]
  · rw [State.endCommand_status, State.hasDiag_eq_decide, hdiag]
    by_cases hnil : d.records = []
    · rw [if_pos hnil, hnil]; rfl
    · rw [if_neg hnil, decide_eq_true (List.length_eq_zero_iff.not.2 hnil)]; rfl

/-- On whole groups `GCRDEC` delivers the decode of `WB[0..WLEN)` (R116). -/
theorem gcrdec_delivers {s : State} (h : s.wlen.toNat % 5 = 0) :
    Delivers (gcrDecode s.params.gcrTable false (s.wbBytes s.wlen.toNat)) (gcrdec s) := by
  have hw := s.wlen.isLt
  obtain ⟨hb, hn, hr⟩ := gcrDecode_lengths s.params.gcrTable false (q := s.wlen.toNat / 5)
    (input := s.wbBytes s.wlen.toNat) (by rw [State.wbBytes_length]; omega)
  have hend : gcrdec s = _ := if_neg (not_not.2 h)
  rw [hend]
  exact delivers_putDecoded s (by omega) (by omega) (by omega)

/-- The bits of `WB[0..n)` as a byte sequence are those of `WB` (R112). -/
theorem listBit_wbBytes (s : State) {n m : Nat} (h : m < 8 * n) :
    listBit (s.wbBytes n) m = s.wbBit m := by
  have hm : m / 8 < n := by omega
  rw [listBit, State.wbBit, State.wbBytes, List.getD_eq_getElem?_getD, List.getElem?_map,
    List.getElem?_range hm]
  rfl

theorem badRecords_congr (t : Vector Codeword 16) (phase : BitVec 1) {cw cw' : Nat → Codeword}
    {n : Nat} (h : ∀ k, k < n → cw k = cw' k) :
    badRecords t phase cw n = badRecords t phase cw' n := by
  have hind : badIndices t cw n = badIndices t cw' n :=
    List.filter_congr fun k hk => by rw [h k (List.mem_range.1 hk)]
  rw [badRecords, badRecords, hind]
  refine List.map_congr_left fun k hk => ?_
  rw [h k (List.mem_range.1 (List.mem_of_mem_filter hk))]

/-- The decode of `q` whole groups of `WB`, by the codewords of its bit stream (R112 to R115). -/
theorem gcrDecode_wbBytes (s : State) (t : Vector Codeword 16) (phase : Bool) (q : Nat) :
    let cw (k : Nat) : Codeword := fiveBits s.wbBit (5 * k)
    let d := gcrDecode t phase (s.wbBytes (5 * q))
    d.nibbles = (List.range (8 * q)).map (fun k => nibbleOf t (cw k)) ∧
    d.bytes.length = 4 * q ∧
    (∀ j, j < 4 * q → d.bytes[j]? =
      some (packedByte (nibbleOf t (cw (2 * j))) (nibbleOf t (cw (2 * j + 1))))) ∧
    d.records = badRecords t (BitVec.ofBool phase) cw (8 * q) := by
  intro cw d
  have hcw : ∀ k, k < 8 * q → fiveBits (listBit (s.wbBytes (5 * q))) (5 * k) = cw k :=
    fun k hk => fiveBits_congr fun j hj => listBit_wbBytes s (by omega)
  obtain ⟨hnib, hlen, hbytes, hrec⟩ :=
    gcrDecode_spec t phase q (s.wbBytes (5 * q)) (by rw [State.wbBytes_length])
  refine ⟨hnib.trans (List.map_congr_left fun k hk => ?_), hlen, fun j hj => ?_,
    hrec.trans (badRecords_congr t _ hcw)⟩
  · exact congrArg (nibbleOf t) (hcw k (List.mem_range.1 hk))
  · rw [← hcw (2 * j) (by omega), ← hcw (2 * j + 1) (by omega)]
    exact hbytes j hj

/-- What `GCRDEC` leaves of `q` whole groups, by the codewords of `WB` (R112 to R116). -/
theorem gcrdec_wholeGroups {s : State} {q : Nat} (h : s.wlen.toNat = 5 * q) :
    let cw (k : Nat) : Codeword := fiveBits s.wbBit (5 * k)
    let records := badRecords s.params.gcrTable 0#1 cw (8 * q)
    (gcrdec s).olen.toNat = 4 * q ∧ (gcrdec s).nlen.toNat = 8 * q ∧
    (gcrdec s).diagcnt.toNat = records.length ∧
    (∀ k, k < 8 * q → (gcrdec s).nbByte k = nibbleOf s.params.gcrTable (cw k)) ∧
    (∀ j, j < 4 * q → (gcrdec s).obByte j =
      packedByte ((gcrdec s).nbByte (2 * j)) ((gcrdec s).nbByte (2 * j + 1))) ∧
    (∀ i, i < records.length → records[i]? = some ((gcrdec s).diagAt i)) ∧
    (gcrdec s).status = if records = [] then 0b00000#5 else 0b10000#5 := by
  intro cw records
  obtain ⟨hnib, hlen, hbytes, hrec⟩ := gcrDecode_wbBytes s s.params.gcrTable false q
  replace hrec : _ = records := hrec
  have hd := gcrdec_delivers (s := s) (by omega)
  rw [h] at hd
  have hnlen := congrArg List.length hnib
  rw [List.length_map, List.length_range] at hnlen
  have hnb : ∀ k, k < 8 * q → (gcrdec s).nbByte k = nibbleOf s.params.gcrTable (cw k) := by
    intro k hk
    have hget := hd.nb k (hnlen ▸ hk)
    rw [hnib, List.getElem?_map, List.getElem?_range hk] at hget
    exact (Option.some.inj hget).symm
  refine ⟨hd.olen.trans hlen, hd.nlen.trans hnlen, hrec ▸ hd.diagcnt, hnb, fun j hj => ?_,
    hrec ▸ hd.diag, hrec ▸ hd.status⟩
  have hget := hd.ob j (hlen ▸ hj)
  rw [hbytes j hj] at hget
  rw [hnb _ (by omega), hnb _ (by omega)]
  exact (Option.some.inj hget).symm

/-- Settles O18: the results are those of `gcrdec_wholeGroups`, the frames those of every
command. -/
theorem gcrdecDecodesWholeGroups : Obligations.GcrdecDecodesWholeGroups := by
  intro s hmod ht
  obtain ⟨q, hq⟩ := Nat.dvd_of_mod_eq_zero hmod
  obtain ⟨holen, hnlen, hdiag, hnb, hob, hrec, hstatus⟩ := gcrdec_wholeGroups hq
  have hram : ramFrame s (gcrdec s) .gcrdec := commandEnd_ramFrame .gcrdec s
  rw [ramFrame, holen, hnlen, hdiag] at hram
  dsimp only
  rw [hq, show 4 * (5 * q) / 5 = 4 * q by omega, show 8 * (5 * q) / 5 = 8 * q by omega]
  exact ⟨gcrdec s, rfl, holen, hnlen, hdiag, fun k hk => hnb k hk ▸ nibbleOf_isEntry ht _, hob,
    hrec, hstatus, commandEnd_regFrame .gcrdec s, hram⟩

/-- Settles O21: an entry is the sentinel exactly for an invalid codeword, so the records are as
many as the sentinels. -/
theorem invalidCodewordNeverAborts : Obligations.InvalidCodewordNeverAborts := by
  intro s t hmod hexec
  obtain rfl : gcrdec s = t := exec_eq_next_iff.1 hexec
  obtain ⟨q, hq⟩ := Nat.dvd_of_mod_eq_zero hmod
  obtain ⟨holen, hnlen, hdiag, hnb, _⟩ := gcrdec_wholeGroups hq
  rw [hq, show 4 * (5 * q) / 5 = 4 * q by omega, show 8 * (5 * q) / 5 = 8 * q by omega]
  have hsent : ∀ k, k < 8 * q → ((gcrdec s).nbByte k = 0xFF#8 ↔
      invalidIn s.params.gcrTable (fiveBits s.wbBit (5 * k))) := fun k hk => by
    rw [hnb k hk, nibbleOf_eq_sentinel_iff]
  refine ⟨hnlen, holen, hsent, ?_⟩
  rw [hdiag, badRecords, List.length_map, badIndices]
  refine congrArg List.length (List.filter_congr fun k hk => ?_)
  rw [Bool.eq_iff_iff, decide_eq_true_iff, beq_iff_eq]
  exact (hsent k (List.mem_range.1 hk)).symm

/-- Settles O19. -/
theorem gcrdecRejectsBadLength : Obligations.GcrdecRejectsBadLength := by
  intro s hmod
  have hend : gcrdec s = s.clearDecode.endCommand .eFormat false := if_pos hmod
  exact ⟨gcrdec s, rfl, hend, hend ▸ ramSame_of_buffers_eq rfl rfl rfl⟩

end Sys2Proof.Machine

namespace Sys2Proof.Machine

/-! ## The round trip of the inverse table (40_gcr_decode.md R111, R117) -/

/-- The two codewords of a byte, the high nibble's first (R111, R114). -/
def byteCodewords (t : Vector Codeword 16) (b : Byte) : List Codeword :=
  [t[(b.extractLsb' 4 4).toFin], t[(b.extractLsb' 0 4).toFin]]

/-- A 40-bit value is the group of its own five bytes (R112). -/
theorem groupWord_extract (g : BitVec 40) :
    groupWord (g.extractLsb' 32 8) (g.extractLsb' 24 8) (g.extractLsb' 16 8) (g.extractLsb' 8 8)
      (g.extractLsb' 0 8) = g := by
  rw [groupWord, BitVec.extractLsb'_append_extractLsb'_eq_extractLsb' (show 32 = 24 + 8 from rfl),
    BitVec.extractLsb'_append_extractLsb'_eq_extractLsb' (show 24 = 16 + 8 from rfl),
    BitVec.extractLsb'_append_extractLsb'_eq_extractLsb' (show 16 = 8 + 8 from rfl),
    BitVec.extractLsb'_append_extractLsb'_eq_extractLsb' (show 8 = 0 + 8 from rfl)]
  exact BitVec.extractLsb'_eq_self

/-- The eight codewords packed into a group are the ones cut out of it (R112). -/
theorem codewordOf_pack (c0 c1 c2 c3 c4 c5 c6 c7 : Codeword) :
    (List.range 8).map (codewordOf ((c0 ++ c1 : BitVec 10) ++ (c2 ++ c3 : BitVec 10) ++
      (c4 ++ c5 : BitVec 10) ++ (c6 ++ c7 : BitVec 10))) = [c0, c1, c2, c3, c4, c5, c6, c7] := by
  simp [List.range_succ, codewordOf, BitVec.extractLsb'_append_eq_of_le (w := 10),
    BitVec.extractLsb'_append_eq_of_add_le (w := 10),
    BitVec.extractLsb'_append_eq_left (w := 5) (w' := 5),
    BitVec.extractLsb'_append_eq_right (w := 5) (w' := 5)]

/-- Encoding writes the two codewords of each byte in order (R111, R112). -/
theorem codewords_gcrEncode (t : Vector Codeword 16) : ∀ plain : List Byte, plain.length % 4 = 0 →
    codewords (gcrEncode t plain) = plain.flatMap (byteCodewords t)
  | [], _ => rfl
  | p0 :: p1 :: p2 :: p3 :: rest, h => by
    have hrest : rest.length % 4 = 0 := by simp only [List.length_cons] at h; omega
    rw [gcrEncode, codewords, groupWord_extract, codewords_gcrEncode t rest hrest]
    exact congrArg (· ++ rest.flatMap (byteCodewords t)) (codewordOf_pack ..)
  | [_], h => absurd h (by simp)
  | [_, _], h => absurd h (by simp)
  | [_, _, _], h => absurd h (by simp)

/-- Encoded bytes are whole groups (R112). -/
theorem gcrEncode_length_mod (t : Vector Codeword 16) (plain : List Byte) :
    (gcrEncode t plain).length % 5 = 0 := by
  fun_induction gcrEncode t plain with
  | case1 p0 p1 p2 p3 rest cw g ih => simp only [List.length_cons]; omega
  | case2 => rfl

/-- In an injective table the entry of a nibble's codeword is the nibble (R111, R113). -/
theorem nibbleOf_table {t : Vector Codeword 16} (ht : t.toList.Nodup) (n : BitVec 4) :
    nibbleOf t t[n.toFin] = n.setWidth 8 := by
  rw [nibbleOf_of_some (decTab_of_table ht n.toFin)]
  exact congrArg _ (BitVec.ofNat_toNat ..)

/-- The nibbles of a byte pack to the byte (R114). -/
theorem pack_nibbles_of_byte (b : Byte) :
    ((b.extractLsb' 4 4).setWidth 8 <<< 4) ||| (b.extractLsb' 0 4).setWidth 8 = b := by
  refine BitVec.eq_of_getLsbD_eq fun i hi => ?_
  by_cases hlow : i < 4
  · simp [hlow, hi]
  · simp [hlow, hi, show i - 4 < 4 by omega, show 4 + (i - 4) = i by omega]

/-- The entries of encoded bytes pack to the bytes (R114, R117). -/
theorem packNibbles_byteCodewords {t : Vector Codeword 16} (ht : t.toList.Nodup)
    (plain : List Byte) :
    packNibbles ((plain.flatMap (byteCodewords t)).map (nibbleOf t)) = plain := by
  induction plain with
  | nil => rfl
  | cons b rest ih =>
    rw [List.flatMap_cons, List.map_append, byteCodewords, List.map_cons, List.map_cons,
      nibbleOf_table ht, nibbleOf_table ht]
    exact congrArg₂ List.cons (pack_nibbles_of_byte b) ih

/-- Codewords of the table leave no record (R113). -/
theorem faultRecords_eq_nil {t : Vector Codeword 16} (phase : Bool) {cws : List Codeword}
    (h : ∀ cw ∈ cws, ¬ invalidIn t cw) (k : Nat) : faultRecords t phase k cws = [] := by
  induction cws generalizing k with
  | nil => rfl
  | cons cw rest ih =>
    have hcw : ¬ (decTab t cw).isNone = true := fun hn =>
      h cw List.mem_cons_self ((decTab_eq_none_iff t cw).1 (Option.isNone_iff_eq_none.1 hn))
    rw [faultRecords, if_neg hcw]
    exact ih (fun c hc => h c (List.mem_cons_of_mem _ hc)) (k + 1)

/-- Both codewords of a byte stand in the table (R111). -/
theorem byteCodewords_valid (t : Vector Codeword 16) (b : Byte) :
    ∀ cw ∈ byteCodewords t b, ¬ invalidIn t cw := by
  intro cw hcw hinv
  rcases List.mem_pair.1 hcw with rfl | rfl
  · exact hinv _ rfl
  · exact hinv _ rfl

/-- The decode of encoded bytes is the bytes, without a record (R117). -/
theorem gcrDecode_gcrEncode {t : Vector Codeword 16} (ht : t.toList.Nodup) (phase : Bool)
    {plain : List Byte} (h : plain.length % 4 = 0) :
    (gcrDecode t phase (gcrEncode t plain)).bytes = plain ∧
    (gcrDecode t phase (gcrEncode t plain)).records = [] := by
  have hcws := codewords_gcrEncode t plain h
  constructor
  · rw [gcrDecode, hcws]
    exact packNibbles_byteCodewords ht plain
  · rw [gcrDecode, hcws]
    refine faultRecords_eq_nil phase (fun cw hcw => ?_) 0
    obtain ⟨b, _, hb⟩ := List.mem_flatMap.1 hcw
    exact byteCodewords_valid t b cw hb

/-- `WB[0..n)` is the list whose elements it holds (R9). -/
theorem State.wbBytes_eq_of_getElem? {s : State} {bs : List Byte}
    (h : ∀ i, i < bs.length → bs[i]? = some (s.wbByte i)) : s.wbBytes bs.length = bs := by
  refine List.ext_getElem (s.wbBytes_length _) fun i _ hi => ?_
  rw [State.wbBytes_getElem]
  exact (Option.some.inj ((List.getElem?_eq_getElem hi).symm.trans (h i hi))).symm

/-- Settles O20: the bytes of `WB` are the encoding, whose decode `GCRDEC` delivers. -/
theorem gcrdecInvertsEncoding : Obligations.GcrdecInvertsEncoding := by
  intro s plain hmod _ ht hlen hwb
  have hbytes : s.wbBytes s.wlen.toNat = gcrEncode s.params.gcrTable plain := by
    rw [hlen] at hwb ⊢
    exact State.wbBytes_eq_of_getElem? hwb
  have hd := gcrdec_delivers (s := s) (hlen ▸ gcrEncode_length_mod s.params.gcrTable plain)
  obtain ⟨hplain, hrec⟩ := gcrDecode_gcrEncode ht false hmod
  rw [hbytes] at hd
  have hdiag := hd.diagcnt
  have hstatus := hd.status
  rw [hrec] at hdiag hstatus
  exact ⟨gcrdec s, rfl, hstatus, BitVec.eq_of_toNat_eq hdiag, hplain ▸ hd.olen, hplain ▸ hd.ob⟩

end Sys2Proof.Machine

namespace Sys2Proof.Machine

/-! ## Bits, bytes and the sync search at the cursor (41_bit_cursor_sync.md R131 to R135, R138) -/

/-- Settles O22: the two branches of `read_bit`. -/
theorem rdbitReadsOneBit : Obligations.RdbitReadsOneBit := by
  intro s
  constructor
  · intro hlt
    have hend : rdbit s =
        ((s.setCur (s.cur.toNat + 1)).setBitv (s.tbBit s.cur.toNat)).endCommand .ok false :=
      if_neg (Nat.not_le.2 hlt)
    have hcur : (rdbit s).cur.toNat = s.cur.toNat + 1 := hend ▸ s.setCur_toNat hlt
    exact ⟨rdbit s, rfl, hend ▸ rfl, hcur, hend ▸ rfl, commandEnd_regFrame .rdbit s,
      commandEnd_ramFrame .rdbit s⟩
  · intro hle
    have hend : rdbit s = s.endCommand .eShort false := if_pos hle
    exact ⟨rdbit s, rfl, hend, commandEnd_ramFrame .rdbit s⟩

theorem readBytes_of_le {n : Nat} {s : State} (h : s.cur.toNat + 8 * n ≤ s.limit) :
    readBytes n s =
      .done ((s.putWork (s.streamBytes s.cur.toNat n)).setCur (s.cur.toNat + 8 * n)) :=
  if_neg (by omega)

theorem readBytes_of_gt {n : Nat} {s : State} (hle : s.cur.toNat ≤ s.limit)
    (h : s.limit < s.cur.toNat + 8 * n) : readBytes n s = .failed .eShort (s.setCur s.limit) :=
  if_pos (by omega)

/-- With a legal `CNT`, `RDBYTES` is `read_bytes(CNT)` (R133). -/
theorem rdbytes_of_le {s : State} (h : s.cnt.toNat ≤ 1024) : rdbytes s =
    (readBytes s.cnt.toNat s).result.2.endCommand (readBytes s.cnt.toNat s).result.1 false :=
  if_neg (Nat.not_lt.2 h)

/-- Byte `j` of a stored read holds the stream bits from `c + 8j` on (R65, R133). -/
theorem State.putWork_streamBytes_bit (s : State) {c n j b : Nat} (hj : j < n) (hb : b < 8) :
    ((s.putWork (s.streamBytes c n)).wbByte j).getLsbD (7 - b) = s.tbBit (c + 8 * j + b) := by
  rw [State.putWork_wbByte, dif_pos (by rwa [State.streamBytes_length]),
    State.streamBytes_getElem, State.streamByte_bit _ _ hb]

/-- Settles O23: with the room for its bytes, `RDBYTES` is a done `read_bytes(CNT)`. -/
theorem rdbytesDeliversStreamBytes : Obligations.RdbytesDeliversStreamBytes := by
  intro s hcnt hroom
  have hend : rdbytes s = ((s.putWork (s.streamBytes s.cur.toNat s.cnt.toNat)).setCur
      (s.cur.toNat + 8 * s.cnt.toNat)).endCommand .ok false := by
    rw [rdbytes_of_le hcnt, readBytes_of_le hroom]
    rfl
  refine ⟨rdbytes s, rfl, fun j b hj hb => ?_, ?_, ?_, hend ▸ rfl,
    commandEnd_regFrame .rdbytes s, commandEnd_ramFrame .rdbytes s⟩
  · rw [hend]
    exact s.putWork_streamBytes_bit hj hb
  · rw [hend, State.endCommand_wlen, State.setCur_wlen, State.putWork_wlen,
      State.streamBytes_length]
    exact Nat.mod_eq_of_lt (by omega)
  · rw [hend]
    exact State.setCur_toNat _ hroom

/-- Settles O24: the test of `CNT` comes before that of the bits left. -/
theorem rdbytesFailures : Obligations.RdbytesFailures := by
  intro s hle
  constructor
  · intro hcnt
    have hend : rdbytes s = s.endCommand .eRange false := if_pos hcnt
    exact ⟨rdbytes s, rfl, hend, hend ▸ ramSame_of_buffers_eq rfl rfl rfl⟩
  · intro hcnt hshort
    have hend : rdbytes s = (s.setCur s.limit).endCommand .eShort false := by
      rw [rdbytes_of_le hcnt, readBytes_of_gt hle hshort]
      rfl
    exact ⟨_, congrArg Host.Outcome.next hend, s.setCur_toNat (Nat.le_refl _), rfl,
      ramSame_of_buffers_eq rfl rfl rfl⟩

theorem sync_of_firstSync {s : State} {k : Nat} (h : s.firstSync s.cur.toNat k) :
    sync s = (s.setCur k).endCommand .ok false := by
  rw [sync, findSync_of_firstSync h]
  rfl

theorem sync_of_noSync {s : State} (hle : s.cur.toNat ≤ s.limit) (h : s.noSync s.cur.toNat) :
    sync s = (s.setCur s.limit).endCommand .eSync false := by
  rw [sync, findSync_of_noSync hle h]
  rfl

theorem State.firstSync_lt_limit {s : State} {c k : Nat} (h : s.firstSync c k) : k < s.limit := by
  obtain ⟨⟨_, hlt, _⟩, _⟩ := h
  exact hlt

/-- The cursor rests on a boundary exactly (R27, R134). -/
theorem State.setCur_toNat_of_firstSync {s : State} {c k : Nat} (h : s.firstSync c k) :
    (s.setCur k).cur.toNat = k :=
  s.setCur_toNat (State.firstSync_lt_limit h).le

/-- Settles O25. -/
theorem syncRestsOnFirstBoundary : Obligations.SyncRestsOnFirstBoundary := by
  intro s k h
  have hend := sync_of_firstSync h
  exact ⟨sync s, rfl, hend ▸ State.setCur_toNat_of_firstSync h, hend ▸ rfl,
    commandEnd_regFrame .sync s, commandEnd_ramFrame .sync s⟩

/-- Settles O26. -/
theorem syncFailsWithoutBoundary : Obligations.SyncFailsWithoutBoundary := by
  intro s hle h
  have hend := sync_of_noSync hle h
  exact ⟨sync s, rfl, hend ▸ s.setCur_toNat (Nat.le_refl _), hend ▸ rfl,
    commandEnd_regFrame .sync s, commandEnd_ramFrame .sync s⟩

/-- Ten 1-bits from `c` on and then a 0-bit: no earlier boundary has room for its run (R138). -/
theorem State.firstSync_add_ten {s : State} {c : Nat} (hones : ∀ j, j < 10 → s.tbBit (c + j) = true)
    (hzero : s.tbBit (c + 10) = false) (hlt : c + 10 < s.limit) : s.firstSync c (c + 10) := by
  refine ⟨⟨Nat.le_refl _, hlt, hzero, fun j hj hjc => ?_⟩, fun k hk hsync => ?_⟩
  · obtain ⟨i, rfl⟩ := Nat.exists_eq_add_of_le (show c ≤ j by omega)
    exact hones i (by omega)
  · obtain ⟨hroom, _⟩ := hsync
    omega

/-- A boundary ends a run of ten 1-bits inside the stream, so without such a run there is none
(R138). -/
theorem State.noSync_of_runs_short {s : State} {c : Nat}
    (h : ∀ p, c ≤ p → p + 10 ≤ s.limit → ∃ j, j < 10 ∧ s.tbBit (p + j) = false) : s.noSync c := by
  rintro k ⟨hck, hlt, _, hones⟩
  obtain ⟨j, hj, hz⟩ := h (k - 10) (by omega) (by omega)
  rw [hones _ (by omega) (by omega)] at hz
  exact Bool.noConfusion hz

/-- With the cursor past `LIMIT` the scan has no bit to read (R134). -/
theorem findSync_of_gt {s : State} (h : s.limit < s.cur.toNat) :
    findSync s = .failed .eSync (s.setCur s.cur.toNat) := by
  rw [findSync, Nat.sub_eq_zero_of_le h.le]
  rfl

/-- Settles O27: the first clause by `State.firstSync_add_ten`, the second by
`State.noSync_of_runs_short`, a cursor past `LIMIT` apart. -/
theorem syncBoundaryProperty : Obligations.SyncBoundaryProperty := by
  constructor
  · intro s hones hzero hlt
    have hfirst := State.firstSync_add_ten hones hzero hlt
    have hend := sync_of_firstSync hfirst
    exact ⟨sync s, rfl, hend ▸ State.endCommand_code .., hend ▸
      State.setCur_toNat_of_firstSync hfirst⟩
  · intro s hruns
    refine ⟨sync s, rfl, ?_⟩
    rcases Nat.lt_or_ge s.limit s.cur.toNat with hgt | hle
    · rw [sync, findSync_of_gt hgt]
      exact State.endCommand_code ..
    · rw [sync_of_noSync hle (State.noSync_of_runs_short hruns)]
      exact State.endCommand_code ..

end Sys2Proof.Machine

namespace Sys2Proof.Machine

/-! ## `RDSEC` as two searches with a read (41_bit_cursor_sync.md R136) -/

theorem Stage.andThen_assoc (st : Stage) (f g : State → Stage) :
    (st.andThen f).andThen g = st.andThen fun t => (f t).andThen g := by
  cases st <;> rfl

/-- `find_sync()` and then `read_bytes(n)`, as `RDSEC` does twice (R136). -/
def syncRead (n : Nat) (s : State) : Stage := (findSync s).andThen (readBytes n)

/-- What the read of `n` bytes from stream position `k` on leaves (R133). -/
def State.readAt (s : State) (k n : Nat) : State :=
  (s.putWork (s.streamBytes k n)).setCur (k + 8 * n)

@[simp] theorem State.readAt_olen (s : State) (k n : Nat) : (s.readAt k n).olen = s.olen := rfl
@[simp] theorem State.readAt_diagcnt (s : State) (k n : Nat) :
    (s.readAt k n).diagcnt = s.diagcnt := rfl
@[simp] theorem State.readAt_diagAt (s : State) (k n : Nat) :
    (s.readAt k n).diagAt = s.diagAt := rfl
@[simp] theorem State.readAt_sh (s : State) (k n : Nat) : (s.readAt k n).sh = s.sh := rfl
@[simp] theorem State.readAt_params (s : State) (k n : Nat) : (s.readAt k n).params = s.params :=
  rfl
@[simp] theorem State.readAt_tbBit (s : State) (k n : Nat) : (s.readAt k n).tbBit = s.tbBit := rfl
@[simp] theorem State.readAt_limit (s : State) (k n : Nat) : (s.readAt k n).limit = s.limit := rfl

theorem State.readAt_wlen (s : State) (k : Nat) {n : Nat} (h : n < 2048) :
    (s.readAt k n).wlen.toNat = n := by
  rw [State.readAt, State.setCur_wlen, State.putWork_wlen, State.streamBytes_length]
  exact Nat.mod_eq_of_lt h

theorem State.readAt_wbByte_bit (s : State) (k : Nat) {n j b : Nat} (hj : j < n) (hb : b < 8) :
    ((s.readAt k n).wbByte j).getLsbD (7 - b) = s.tbBit (k + 8 * j + b) := by
  rw [State.readAt, State.setCur_wbByte, s.putWork_streamBytes_bit hj hb]

theorem State.readAt_cur {s : State} {k n : Nat} (h : k + 8 * n ≤ s.limit) :
    (s.readAt k n).cur.toNat = k + 8 * n :=
  State.setCur_toNat _ h

theorem State.readAt_ram (s : State) (k n : Nat) :
    ramSameExcept (wbUpTo n) (fun _ => False) s (s.readAt k n) := by
  have hram := s.putWork_ram (s.streamBytes k n)
  rwa [State.streamBytes_length] at hram

theorem syncRead_of_noSync {s : State} (n : Nat) (hle : s.cur.toNat ≤ s.limit)
    (h : s.noSync s.cur.toNat) : syncRead n s = .failed .eSync (s.setCur s.limit) := by
  rw [syncRead, findSync_of_noSync hle h]
  rfl

theorem syncRead_of_gt {s : State} {k n : Nat} (h : s.firstSync s.cur.toNat k)
    (hshort : s.limit < k + 8 * n) : syncRead n s = .failed .eShort (s.setCur s.limit) := by
  have hcur := State.setCur_toNat_of_firstSync h
  rw [syncRead, findSync_of_firstSync h, Stage.andThen,
    readBytes_of_gt (hcur.trans_le (State.firstSync_lt_limit h).le) (hcur.symm ▸ hshort)]
  rfl

theorem syncRead_of_le {s : State} {k n : Nat} (h : s.firstSync s.cur.toNat k)
    (hroom : k + 8 * n ≤ s.limit) : syncRead n s = .done (s.readAt k n) := by
  have hcur := State.setCur_toNat_of_firstSync h
  rw [syncRead, findSync_of_firstSync h, Stage.andThen, readBytes_of_le (hcur.symm ▸ hroom), hcur]
  rfl

/-- The delivery of the header decode (R136). -/
def State.putHeader (s : State) (d : Decoded) : State :=
  ((s.putSh (Vector.ofFn fun i => d.bytes.getD i.val 0#8)).putNibbles d.nibbles).putDiag 0 d.records

/-- The delivery of the data decode (R136). -/
def State.putSector (s : State) (d : Decoded) : State :=
  ((s.putNibbles d.nibbles).putDiag s.diagcnt.toNat d.records).putOutput
    ((d.bytes.drop 1).take stdPayload)

/-! What the two deliveries leave alone. -/

@[simp] theorem State.putHeader_cur (s : State) (d : Decoded) :
    (s.putHeader d).cur = s.cur := by
  rw [State.putHeader, State.putDiag_cur, State.putNibbles_cur, State.putSh_cur]

@[simp] theorem State.putHeader_wlen (s : State) (d : Decoded) :
    (s.putHeader d).wlen = s.wlen := by
  rw [State.putHeader, State.putDiag_wlen, State.putNibbles_wlen, State.putSh_wlen]

@[simp] theorem State.putHeader_olen (s : State) (d : Decoded) :
    (s.putHeader d).olen = s.olen := by
  rw [State.putHeader, State.putDiag_olen, State.putNibbles_olen, State.putSh_olen]

@[simp] theorem State.putHeader_tbBit (s : State) (d : Decoded) :
    (s.putHeader d).tbBit = s.tbBit := by
  rw [State.putHeader, State.putDiag_tbBit, State.putNibbles_tbBit, State.putSh_tbBit]

@[simp] theorem State.putHeader_wbByte (s : State) (d : Decoded) :
    (s.putHeader d).wbByte = s.wbByte := by
  rw [State.putHeader, State.putDiag_wbByte, State.putNibbles_wbByte, State.putSh_wbByte]

@[simp] theorem State.putHeader_limit (s : State) (d : Decoded) :
    (s.putHeader d).limit = s.limit := by
  rw [State.putHeader, State.putDiag_limit, State.putNibbles_limit, State.putSh_limit]

@[simp] theorem State.putHeader_params (s : State) (d : Decoded) :
    (s.putHeader d).params = s.params := by
  rw [State.putHeader, State.putDiag_params, State.putNibbles_params, State.putSh_params]

@[simp] theorem State.putSector_cur (s : State) (d : Decoded) :
    (s.putSector d).cur = s.cur := by
  rw [State.putSector, State.putOutput_cur, State.putDiag_cur, State.putNibbles_cur]

@[simp] theorem State.putSector_wlen (s : State) (d : Decoded) :
    (s.putSector d).wlen = s.wlen := by
  rw [State.putSector, State.putOutput_wlen, State.putDiag_wlen, State.putNibbles_wlen]

@[simp] theorem State.putSector_sh (s : State) (d : Decoded) :
    (s.putSector d).sh = s.sh := by
  rw [State.putSector, State.putOutput_sh, State.putDiag_sh, State.putNibbles_sh]

@[simp] theorem State.putSector_wbByte (s : State) (d : Decoded) :
    (s.putSector d).wbByte = s.wbByte := by
  rw [State.putSector, State.putOutput_wbByte, State.putDiag_wbByte, State.putNibbles_wbByte]

@[simp] theorem State.putSector_limit (s : State) (d : Decoded) :
    (s.putSector d).limit = s.limit := by
  rw [State.putSector, State.putOutput_limit, State.putDiag_limit, State.putNibbles_limit]

theorem headerStage_eq (s : State) : headerStage s =
    .done (s.putHeader (gcrDecode s.params.gcrTable false (s.wbBytes hdrRaw))) := rfl

theorem dataStage_eq (s : State) : dataStage s =
    .done (s.putSector (gcrDecode s.params.gcrTable true (s.wbBytes dataRaw))) := rfl

/-- The steps of `RDSEC`, each search taken with its read (R136). -/
theorem sectorStages_eq (s : State) : sectorStages s =
    ((syncRead hdrRaw s.clearDecode).andThen headerStage).andThen
      fun t => (syncRead dataRaw t).andThen dataStage := by
  simp only [sectorStages, syncRead, Stage.andThen_assoc]

/-- `RDSEC` ends with the code of its stages and the flag of the log (R25, R136). -/
theorem rdsec_of_result {s t : State} {c : ResultCode} (h : (sectorStages s).result = (c, t)) :
    rdsec s = t.endCommand c t.hasDiag := by
  rw [rdsec, h]

/-- A missing or cut header ends `RDSEC` with an empty log (R136, R244). -/
theorem rdsec_of_header_failed {s : State} {c : ResultCode} {n : Nat}
    (h : syncRead hdrRaw s.clearDecode = .failed c (s.clearDecode.setCur n)) :
    rdsec s = (s.clearDecode.setCur n).endCommand c false := by
  have hdiag : (s.clearDecode.setCur n).hasDiag = false := by
    rw [State.hasDiag, State.setCur_diagcnt, State.clearDecode_diagcnt, bne_self_eq_false]
  rw [rdsec_of_result (t := s.clearDecode.setCur n) (c := c) (by rw [sectorStages_eq, h]; rfl),
    hdiag]

/-- `RDSEC` whose header ends before `LIMIT`, up to the second search: the state it leaves. -/
def State.afterHeader (s : State) (k : Nat) : State :=
  let t := s.clearDecode.readAt k hdrRaw
  t.putHeader (gcrDecode s.params.gcrTable false (t.wbBytes hdrRaw))

/-- The state the data decode of `RDSEC` leaves, the data block standing at `k`. -/
def State.afterData (s : State) (k : Nat) : State :=
  let t := s.readAt k dataRaw
  t.putSector (gcrDecode s.params.gcrTable true (t.wbBytes dataRaw))

/-! Neither the header's read nor its decode reaches `TB` or the parameters (R136). -/

@[simp] theorem State.afterHeader_tbBit (s : State) (k : Nat) :
    (s.afterHeader k).tbBit = s.tbBit := by
  rw [State.afterHeader, State.putHeader_tbBit, State.readAt_tbBit, State.clearDecode_tbBit]

@[simp] theorem State.afterHeader_limit (s : State) (k : Nat) :
    (s.afterHeader k).limit = s.limit := by
  rw [State.afterHeader, State.putHeader_limit, State.readAt_limit, State.clearDecode_limit]

@[simp] theorem State.afterHeader_params (s : State) (k : Nat) :
    (s.afterHeader k).params = s.params := by
  rw [State.afterHeader, State.putHeader_params, State.readAt_params, State.clearDecode_params]

theorem State.afterHeader_syncAt (s : State) (k : Nat) : (s.afterHeader k).syncAt = s.syncAt := by
  funext c q
  rw [State.syncAt, State.syncAt, State.afterHeader_tbBit, State.afterHeader_limit]

theorem State.afterHeader_firstSync (s : State) (k : Nat) :
    (s.afterHeader k).firstSync = s.firstSync := by
  funext c q
  rw [State.firstSync, State.firstSync, State.afterHeader_syncAt]

theorem State.afterHeader_noSync (s : State) (k : Nat) : (s.afterHeader k).noSync = s.noSync := by
  funext c
  rw [State.noSync, State.noSync, State.afterHeader_syncAt]

theorem State.afterHeader_cur {s : State} {k : Nat} (h : k + 80 ≤ s.limit) :
    (s.afterHeader k).cur.toNat = k + 80 := by
  rw [State.afterHeader, State.putHeader_cur]
  exact State.setCur_toNat _ h

section
variable {s : State} {k : Nat} (hsync : s.firstSync s.cur.toNat k) (hroom : k + 80 ≤ s.limit)
include hsync hroom

theorem headerStages_of_le :
    (syncRead hdrRaw s.clearDecode).andThen headerStage = .done (s.afterHeader k) := by
  rw [syncRead_of_le (s := s.clearDecode) (n := hdrRaw) hsync hroom]
  exact headerStage_eq _

/-- A missing or cut data block ends `RDSEC` after its header (R136, R244). -/
theorem rdsec_of_data_failed {t : State} {c : ResultCode}
    (h : syncRead dataRaw (s.afterHeader k) = .failed c t) :
    rdsec s = t.endCommand c t.hasDiag := by
  refine rdsec_of_result ?_
  rw [sectorStages_eq, headerStages_of_le hsync hroom, Stage.andThen, h]
  rfl

end

/-- A header and a data block before `LIMIT`: `RDSEC` reads the sector (R136). -/
theorem rdsec_of_le {s : State} {k₁ k₂ : Nat} (hsync₁ : s.firstSync s.cur.toNat k₁)
    (hroom₁ : k₁ + 80 ≤ s.limit) (hsync₂ : s.firstSync (k₁ + 80) k₂)
    (hroom₂ : k₂ + 2600 ≤ s.limit) :
    rdsec s = ((s.afterHeader k₁).afterData k₂).endCommand .ok
      ((s.afterHeader k₁).afterData k₂).hasDiag := by
  have hsize : 2600 = 8 * dataRaw := by decide
  have hread : syncRead dataRaw (s.afterHeader k₁) =
      .done ((s.afterHeader k₁).readAt k₂ dataRaw) := by
    rw [← State.afterHeader_limit s k₁, hsize] at hroom₂
    refine syncRead_of_le ?_ hroom₂
    rw [State.afterHeader_cur hroom₁, State.afterHeader_firstSync]
    exact hsync₂
  refine rdsec_of_result ?_
  rw [sectorStages_eq, headerStages_of_le hsync₁ hroom₁, Stage.andThen, hread, Stage.andThen,
    dataStage_eq, State.readAt_params, Stage.result, State.afterData]

/-- Settles O29: the first search with its read fails, and no decode runs. -/
theorem rdsecFailsBeforeHeader : Obligations.RdsecFailsBeforeHeader := by
  intro s hle
  constructor
  · intro hno
    have hend := rdsec_of_header_failed (syncRead_of_noSync (s := s.clearDecode) hdrRaw hle hno)
    exact ⟨_, congrArg Host.Outcome.next hend, s.setCur_toNat (Nat.le_refl _), rfl,
      ramSame_of_buffers_eq rfl rfl rfl⟩
  · intro k hsync hshort
    have hend := rdsec_of_header_failed
      (syncRead_of_gt (s := s.clearDecode) (n := hdrRaw) hsync hshort)
    exact ⟨_, congrArg Host.Outcome.next hend, s.setCur_toNat (Nat.le_refl _), rfl,
      ramSame_of_buffers_eq rfl rfl rfl⟩

end Sys2Proof.Machine

namespace Sys2Proof.Machine

/-! ## What the decodes of `RDSEC` deliver (41_bit_cursor_sync.md R136; 40_gcr_decode.md R112 to
R115) -/

/-- `d` is the decode of `q` whole groups whose codewords are `cw` (R112 to R115). -/
structure IsDecode (t : Vector Codeword 16) (phase : Bool) (cw : Nat → Codeword) (q : Nat)
    (d : Decoded) : Prop where
  nibbles_length : d.nibbles.length = 8 * q
  nibble : ∀ k (hk : k < d.nibbles.length), d.nibbles[k] = nibbleOf t (cw k)
  bytes_length : d.bytes.length = 4 * q
  byte : ∀ j (hj : j < d.bytes.length),
    d.bytes[j] = packedByte (nibbleOf t (cw (2 * j))) (nibbleOf t (cw (2 * j + 1)))
  records : d.records = badRecords t (BitVec.ofBool phase) cw (8 * q)

theorem IsDecode.records_length_le {t : Vector Codeword 16} {phase : Bool} {cw : Nat → Codeword}
    {q : Nat} {d : Decoded} (h : IsDecode t phase cw q d) : d.records.length ≤ 8 * q :=
  h.records ▸ badRecords_length_le ..

/-- Bit `m` of the work buffer after a read at `k` is stream bit `k + m` (R112, R133). -/
theorem State.readAt_wbBit (s : State) (k : Nat) {n m : Nat} (h : m < 8 * n) :
    (s.readAt k n).wbBit m = s.tbBit (k + m) := by
  rw [State.wbBit, s.readAt_wbByte_bit k (by omega) (Nat.mod_lt m (by decide))]
  exact congrArg s.tbBit (by omega)

/-- The decode of a read at `k` has the codewords of the stream from `k` on (R112, R136). -/
theorem isDecode_readAt (s : State) (t : Vector Codeword 16) (phase : Bool) (k q : Nat) :
    IsDecode t phase (fun i => fiveBits s.tbBit (k + 5 * i)) q
      (gcrDecode t phase ((s.readAt k (5 * q)).wbBytes (5 * q))) := by
  have hcw : ∀ i, i < 8 * q →
      fiveBits (s.readAt k (5 * q)).wbBit (5 * i) = fiveBits s.tbBit (k + 5 * i) :=
    fun i hi => fiveBits_congr fun j hj => by
      rw [s.readAt_wbBit k (by omega), Nat.add_assoc]
  obtain ⟨hnib, hlen, hbyte, hrec⟩ := gcrDecode_wbBytes (s.readAt k (5 * q)) t phase q
  generalize gcrDecode t phase _ = d at hnib hlen hbyte hrec ⊢
  have hnlen : d.nibbles.length = 8 * q := by rw [hnib, List.length_map, List.length_range]
  refine ⟨hnlen, fun i hi => ?_, hlen, fun j hj => ?_, hrec.trans (badRecords_congr t _ hcw)⟩
  · simp only [hnib, List.getElem_map, List.getElem_range]
    rw [hcw i (hnlen ▸ hi)]
  · have hget := hbyte j (hlen ▸ hj)
    dsimp only at hget
    rw [List.getElem?_eq_getElem hj, hcw (2 * j) (by omega), hcw (2 * j + 1) (by omega)] at hget
    exact Option.some.inj hget

section
variable {t : Vector Codeword 16} {phase : Bool} {cw : Nat → Codeword} {d : Decoded}

/-- The entries of a decode put to `NB` (R113). -/
theorem IsDecode.putNibbles_nbByte {q : Nat} (h : IsDecode t phase cw q d) (s : State) {k : Nat}
    (hk : k < 8 * q) : (s.putNibbles d.nibbles).nbByte k = nibbleOf t (cw k) := by
  rw [State.putNibbles_nbByte, dif_pos (h.nibbles_length ▸ hk), h.nibble]

theorem IsDecode.putHeader_nbByte (h : IsDecode t phase cw 2 d) (s : State) {k : Nat}
    (hk : k < 16) : (s.putHeader d).nbByte k = nibbleOf t (cw k) := by
  rw [State.putHeader, State.putDiag_nbByte]
  exact h.putNibbles_nbByte _ hk

theorem IsDecode.putHeader_nlen (h : IsDecode t phase cw 2 d) (s : State) :
    (s.putHeader d).nlen.toNat = 16 := by
  rw [State.putHeader, State.putDiag_nlen, State.putNibbles_nlen, h.nibbles_length]
  rfl

theorem IsDecode.putHeader_sh (h : IsDecode t phase cw 2 d) (s : State) (j : Fin 8) :
    (s.putHeader d).sh[j] = packedByte (nibbleOf t (cw (2 * j))) (nibbleOf t (cw (2 * j + 1))) := by
  have hj : j.val < d.bytes.length := h.bytes_length ▸ j.isLt
  have hget : d.bytes.getD j.val 0#8 = d.bytes[j.val] := by
    rw [List.getD_eq_getElem?_getD, List.getElem?_eq_getElem hj, Option.getD_some]
  rw [State.putHeader, State.putDiag_sh, State.putNibbles_sh, State.putSh_sh, ← h.byte j hj, ← hget]
  simp

theorem IsDecode.putHeader_diagcnt (h : IsDecode t phase cw 2 d) (s : State) :
    (s.putHeader d).diagcnt.toNat = d.records.length := by
  have hlen := h.records_length_le
  rw [State.putHeader, State.putDiag_diagcnt, Nat.zero_add]
  exact Nat.mod_eq_of_lt (by omega)

theorem State.putHeader_diagAt (s : State) {i : Nat} (hi : i < d.records.length) :
    d.records[i]? = some ((s.putHeader d).diagAt i) := by
  rw [State.putHeader, State.putDiag_diagAt, if_pos ⟨Nat.zero_le i, by omega⟩, Nat.sub_zero,
    List.getElem?_eq_getElem hi, Option.getD_some]

/-- The header's delivery reaches its entries and its records only (R136). -/
theorem IsDecode.putHeader_ram (h : IsDecode t phase cw 2 d) (s : State) :
    ramSameExcept (fun r i => r = .nb ∧ i < 16) (fun i => i < d.records.length) s
      (s.putHeader d) := by
  have hnb := (s.putNibbles_ram d.nibbles).mono (bytes' := fun r i => r = .nb ∧ i < 16)
    (records' := fun i => i < d.records.length)
    (fun _ _ hi => ⟨hi.1, hi.2.trans_eq h.nibbles_length⟩) (fun _ => False.elim)
  have hdiag := ((s.putNibbles d.nibbles).putDiag_ram 0 d.records).mono
    (bytes' := fun r i => r = .nb ∧ i < 16) (records' := fun i => i < d.records.length)
    (fun _ _ => False.elim) (fun i hi => by omega)
  exact hnb.trans hdiag

/-- The read of the header and its delivery reach the header's places only (R46, R136). -/
theorem IsDecode.header_ram (h : IsDecode t phase cw 2 d) (s : State) (k : Nat) :
    ramSameExcept (wbObNbUpTo 10 0 16) (fun i => i < d.records.length) s
      ((s.clearDecode.readAt k hdrRaw).putHeader d) := by
  have hread := (s.clearDecode.readAt_ram k hdrRaw).mono (bytes' := wbObNbUpTo 10 0 16)
    (records' := fun i => i < d.records.length) (fun _ _ => .inl) (fun _ => False.elim)
  have hput := (h.putHeader_ram (s.clearDecode.readAt k hdrRaw)).mono
    (bytes' := wbObNbUpTo 10 0 16) (fun _ _ hi => .inr (.inr hi)) (fun _ => id)
  exact hread.trans hput

theorem IsDecode.putSector_nbByte (h : IsDecode t phase cw 65 d) (s : State) {k : Nat}
    (hk : k < 520) : (s.putSector d).nbByte k = nibbleOf t (cw k) := by
  rw [State.putSector, State.putOutput_nbByte, State.putDiag_nbByte]
  exact h.putNibbles_nbByte _ hk

theorem IsDecode.putSector_nlen (h : IsDecode t phase cw 65 d) (s : State) :
    (s.putSector d).nlen.toNat = 520 := by
  rw [State.putSector, State.putOutput_nlen, State.putDiag_nlen, State.putNibbles_nlen,
    h.nibbles_length]
  rfl

/-- The payload is `O[1..257)` of the 260 decoded bytes (R136). -/
theorem IsDecode.payload_length (h : IsDecode t phase cw 65 d) :
    ((d.bytes.drop 1).take stdPayload).length = 256 := by
  rw [List.length_take, List.length_drop, h.bytes_length]
  rfl

theorem IsDecode.putSector_olen (h : IsDecode t phase cw 65 d) (s : State) :
    (s.putSector d).olen.toNat = 256 := by
  rw [State.putSector, State.putOutput_olen, h.payload_length]
  rfl

theorem IsDecode.putSector_obByte (h : IsDecode t phase cw 65 d) (s : State) {j : Nat}
    (hj : j < 256) : (s.putSector d).obByte j =
      packedByte (nibbleOf t (cw (2 * j + 2))) (nibbleOf t (cw (2 * j + 3))) := by
  rw [State.putSector, State.putOutput_obByte, dif_pos (h.payload_length.symm ▸ hj),
    List.getElem_take, List.getElem_drop, h.byte, Nat.mul_add, Nat.add_comm (2 * 1)]

theorem IsDecode.putSector_diagcnt (h : IsDecode t phase cw 65 d) {s : State}
    (hs : s.diagcnt.toNat ≤ 16) :
    (s.putSector d).diagcnt.toNat = s.diagcnt.toNat + d.records.length := by
  have hlen := h.records_length_le
  rw [State.putSector, State.putOutput_diagcnt, State.putDiag_diagcnt]
  exact Nat.mod_eq_of_lt (by omega)

/-- The records of the data decode stand after those of the header decode (R136). -/
theorem State.putSector_diagAt {s : State} {rs : List DiagWord}
    (hcount : s.diagcnt.toNat = rs.length)
    (hrs : ∀ i, i < rs.length → rs[i]? = some (s.diagAt i)) {i : Nat}
    (hi : i < (rs ++ d.records).length) :
    (rs ++ d.records)[i]? = some ((s.putSector d).diagAt i) := by
  rw [List.length_append] at hi
  rw [State.putSector, State.putOutput_diagAt, State.putDiag_diagAt, State.putNibbles_diagAt,
    hcount]
  by_cases hlt : i < rs.length
  · rw [if_neg (by omega), List.getElem?_append_left hlt, hrs i hlt]
  · have hi' : i - rs.length < d.records.length := by omega
    rw [if_pos (by omega), List.getElem?_append_right (by omega), List.getElem?_eq_getElem hi',
      Option.getD_some]

end

/-- What the header of `RDSEC` leaves is a read at the first sync with its decode delivered. -/
theorem State.exists_afterHeader (s : State) (k : Nat) : ∃ d,
    IsDecode s.params.gcrTable false (fun i => fiveBits s.tbBit (k + 5 * i)) 2 d ∧
    s.afterHeader k = (s.clearDecode.readAt k hdrRaw).putHeader d :=
  ⟨_, isDecode_readAt s.clearDecode s.params.gcrTable false k 2, rfl⟩

theorem State.exists_afterData (s : State) (k : Nat) : ∃ d,
    IsDecode s.params.gcrTable true (fun i => fiveBits s.tbBit (k + 5 * i)) 65 d ∧
    s.afterData k = (s.readAt k dataRaw).putSector d :=
  ⟨_, isDecode_readAt s s.params.gcrTable true k 65, rfl⟩

/-- `DF` as the list of records says (R25). -/
theorem State.hasDiag_of_length {s : State} {rs : List DiagWord}
    (h : s.diagcnt.toNat = rs.length) : s.hasDiag = decide (rs ≠ []) := by
  rw [State.hasDiag_eq_decide, h, decide_eq_decide, ne_eq, List.length_eq_zero_iff]

/-- After the header a missing sync or a cut data block fails the second search or its read, with
the cursor at `LIMIT` (R134, R136, R244). -/
theorem syncRead_afterHeader_failed {s : State} {k : Nat} {late : Bool} (hroom : k + 80 ≤ s.limit)
    (h : if late then ∃ k₂, s.firstSync (k + 80) k₂ ∧ s.limit < k₂ + 2600
      else s.noSync (k + 80)) :
    syncRead dataRaw (s.afterHeader k) =
      .failed (if late then .eShort else .eSync) ((s.afterHeader k).setCur s.limit) := by
  have hcur := State.afterHeader_cur hroom
  have hlimit := s.afterHeader_limit k
  cases late with
  | false =>
    have hfail := syncRead_of_noSync (s := s.afterHeader k) dataRaw (by omega)
      (by rw [hcur, State.afterHeader_noSync]; exact h)
    rwa [hlimit] at hfail
  | true =>
    obtain ⟨k₂, hsync, hshort⟩ := h
    have hfail := syncRead_of_gt (s := s.afterHeader k) (k := k₂) (n := dataRaw)
      (by rw [hcur, State.afterHeader_firstSync]; exact hsync) (by rw [hlimit]; exact hshort)
    rwa [hlimit] at hfail

/-- Settles O30: the header's results stand in the state its delivery leaves, and the failing step
moves the cursor only. -/
theorem rdsecFailsAfterHeader : Obligations.RdsecFailsAfterHeader := by
  intro s k late ht hsync hroom hfail hcw records
  obtain ⟨d, hd, hafter⟩ := s.exists_afterHeader k
  have hrec : d.records = records := hd.records
  have hend := rdsec_of_data_failed hsync hroom (syncRead_afterHeader_failed hroom hfail)
  rw [hafter] at hend
  have hcount := hd.putHeader_diagcnt (s.clearDecode.readAt k hdrRaw)
  have hnb : ∀ i, i < 16 → (rdsec s).nbByte i = nibbleOf s.params.gcrTable (hcw i) := fun i hi => by
    rw [hend]
    exact hd.putHeader_nbByte _ hi
  refine ⟨rdsec s, rfl, ?_, ?_, ?_, ?_, ?_, fun j b hj hb => ?_, fun j => ?_, fun i hi => ?_,
    fun i hi => ?_, ?_, ?_, commandEnd_regFrame .rdsec s, ?_⟩
  · rw [hend, State.endCommand_cur]
    exact State.setCur_toNat _ (by simp)
  · rw [hend, State.endCommand_wlen, State.setCur_wlen, State.putHeader_wlen]
    exact State.readAt_wlen _ k (by decide)
  · rw [hend, State.endCommand_olen, State.setCur_olen, State.putHeader_olen, State.readAt_olen,
      State.clearDecode_olen]
    rfl
  · rw [hend, State.endCommand_nlen, State.setCur_nlen, hd.putHeader_nlen]
  · rw [hend, State.endCommand_diagcnt, State.setCur_diagcnt, hcount, hrec]
  · rw [hend, State.endCommand_wbByte, State.setCur_wbByte, State.putHeader_wbByte,
      State.readAt_wbByte_bit _ k (show j < hdrRaw from hj) hb, State.clearDecode_tbBit]
  · rw [hnb _ (by omega), hnb _ (by omega), hend, State.endCommand_sh, State.setCur_sh]
    exact hd.putHeader_sh _ j
  · rw [hnb i hi]
    exact nibbleOf_isEntry ht _
  · rw [hend, ← hrec]
    exact State.putHeader_diagAt _ (hrec ▸ hi)
  · rw [hend, State.endCommand_code]
  · rw [hend, State.endCommand_df]
    exact hrec ▸ State.hasDiag_of_length hcount
  · rw [hend, ← hrec]
    exact hd.header_ram s k

/-- Settles O28: the header's results stand in the state its delivery leaves, and those of the data
block in the state the second delivery leaves; the frames are those of every `RDSEC`. -/
theorem rdsecReadsOneSector : Obligations.RdsecReadsOneSector := by
  intro s k₁ k₂ ht hsync₁ hroom₁ hsync₂ hroom₂ hcw dcw records
  obtain ⟨d₁, hd₁, hafter₁⟩ := s.exists_afterHeader k₁
  obtain ⟨d₂, hd₂, hafter₂⟩ := (s.afterHeader k₁).exists_afterData k₂
  rw [State.afterHeader_params, State.afterHeader_tbBit] at hd₂
  have hrec : d₁.records ++ d₂.records = records := by rw [hd₁.records, hd₂.records]; rfl
  have hend := rdsec_of_le hsync₁ hroom₁ hsync₂ hroom₂
  have hcount₁ : ((s.afterHeader k₁).readAt k₂ dataRaw).diagcnt.toNat = d₁.records.length := by
    rw [State.readAt_diagcnt, hafter₁, hd₁.putHeader_diagcnt]
  have hcount₂ : ((s.afterHeader k₁).afterData k₂).diagcnt.toNat = records.length := by
    rw [hafter₂, hd₂.putSector_diagcnt (hcount₁.trans_le hd₁.records_length_le), hcount₁, ← hrec,
      List.length_append]
  have hcount : (rdsec s).diagcnt.toNat = records.length := by
    rw [hend, State.endCommand_diagcnt, hcount₂]
  have hnb : ∀ i, i < 520 → (rdsec s).nbByte i = nibbleOf s.params.gcrTable (dcw i) :=
    fun i hi => by
      rw [hend, State.endCommand_nbByte, hafter₂]
      exact hd₂.putSector_nbByte _ hi
  have hram : ramFrame s (rdsec s) .rdsec := commandEnd_ramFrame .rdsec s
  rw [ramFrame, hcount] at hram
  refine ⟨rdsec s, rfl, ?_, ?_, ?_, ?_, hcount, fun j b hj hb => ?_, fun j => ?_, fun i hi => ?_,
    fun j hj => ?_, fun i hi => ?_, ?_, commandEnd_regFrame .rdsec s, hram⟩
  · rw [hend, State.endCommand_cur, hafter₂, State.putSector_cur]
    exact State.readAt_cur (by rw [State.afterHeader_limit]; exact hroom₂)
  · rw [hend, State.endCommand_wlen, hafter₂, State.putSector_wlen]
    exact State.readAt_wlen _ k₂ (by decide)
  · rw [hend, State.endCommand_olen, hafter₂, hd₂.putSector_olen]
  · rw [hend, State.endCommand_nlen, hafter₂, hd₂.putSector_nlen]
  · rw [hend, State.endCommand_wbByte, hafter₂, State.putSector_wbByte,
      State.readAt_wbByte_bit _ k₂ (show j < dataRaw from hj) hb, State.afterHeader_tbBit]
  · refine ⟨_, _, nibbleOf_isEntry ht _, nibbleOf_isEntry ht _, ?_⟩
    rw [hend, State.endCommand_sh, hafter₂, State.putSector_sh, State.readAt_sh, hafter₁]
    exact hd₁.putHeader_sh _ j
  · rw [hnb i hi]
    exact nibbleOf_isEntry ht _
  · rw [hnb _ (by omega), hnb _ (by omega), hend, State.endCommand_obByte, hafter₂]
    exact hd₂.putSector_obByte _ hj
  · rw [hend, State.endCommand_diagAt, hafter₂, ← hrec]
    refine State.putSector_diagAt hcount₁ (fun n hn => ?_) (hrec ▸ hi)
    rw [State.readAt_diagAt, hafter₁]
    exact State.putHeader_diagAt _ hn
  · rw [hend, State.endCommand_status, State.hasDiag_of_length hcount₂]
    split_ifs with hnil
    · rw [hnil]
      rfl
    · rw [decide_eq_true hnil]
      rfl

end Sys2Proof.Machine

namespace Sys2Proof.Machine

/-! ## The track pass (41_bit_cursor_sync.md R137) -/

theorem findSync_exhausts {s : State} (hle : s.cur.toNat ≤ s.limit) :
    (findSync s).Sat (fun t => t.cur.toNat ≤ t.limit) (fun _ t => t.cur.toNat = t.limit) := by
  rcases findSync_cases s hle with ⟨k, hk, he⟩ | ⟨_, he⟩
  · rw [he]
    exact (State.setCur_toNat_of_firstSync hk).trans_le (State.firstSync_lt_limit hk).le
  · rw [he]
    exact s.setCur_toNat (Nat.le_refl _)

theorem readBytes_exhausts {s : State} (n : Nat) (hle : s.cur.toNat ≤ s.limit) :
    (readBytes n s).Sat (fun t => t.cur.toNat ≤ t.limit) (fun _ t => t.cur.toNat = t.limit) := by
  rcases Nat.lt_or_ge s.limit (s.cur.toNat + 8 * n) with hgt | hroom
  · rw [readBytes_of_gt hle hgt]
    exact s.setCur_toNat (Nat.le_refl _)
  · rw [readBytes_of_le hroom]
    exact (State.setCur_toNat (s.putWork _) hroom).trans_le hroom

/-- Neither decode moves the cursor or fails (R136). -/
theorem headerStage_exhausts {s : State} (hle : s.cur.toNat ≤ s.limit) :
    (headerStage s).Sat (fun t => t.cur.toNat ≤ t.limit) (fun _ t => t.cur.toNat = t.limit) := by
  rw [headerStage_eq, Stage.Sat, State.putHeader_cur, State.putHeader_limit]
  exact hle

theorem dataStage_exhausts {s : State} (hle : s.cur.toNat ≤ s.limit) :
    (dataStage s).Sat (fun t => t.cur.toNat ≤ t.limit) (fun _ t => t.cur.toNat = t.limit) := by
  rw [dataStage_eq, Stage.Sat, State.putSector_cur, State.putSector_limit]
  exact hle

/-- An `RDSEC` that does not end with `OK` leaves the cursor at `LIMIT`: only its searches and reads
fail, and each of these failures does (R133, R134, R136). -/
theorem rdsec_exhausts {s : State} (hle : s.cur.toNat ≤ s.limit)
    (hcode : (rdsec s).code ≠ codeBits .ok) : (rdsec s).cur.toNat = (rdsec s).limit := by
  have hsat := sectorStages_sat (s := s) (F := fun _ t => t.cur.toNat = t.limit)
    (fun t => t.cur.toNat ≤ t.limit) (fun t => t.cur.toNat ≤ t.limit)
    (fun t => t.cur.toNat ≤ t.limit) (fun t => t.cur.toNat ≤ t.limit)
    (fun t => t.cur.toNat ≤ t.limit) (fun t => t.cur.toNat ≤ t.limit)
    (findSync_exhausts hle) (fun _ => readBytes_exhausts _) (fun _ => headerStage_exhausts)
    (fun _ => findSync_exhausts) (fun _ => readBytes_exhausts _) (fun _ => dataStage_exhausts)
  rcases Stage.result_cases hsat with ⟨hok, _⟩ | hfailed
  · rw [rdsec, State.endCommand_code, hok] at hcode
    exact absurd rfl hcode
  · exact hfailed

/-- With the cursor at `LIMIT` the first search of `RDSEC` fails (R277). -/
theorem rdsec_of_exhausted {s : State} (h : s.cur.toNat = s.limit) :
    (rdsec s).code ≠ codeBits .ok ∧ (rdsec s).cur.toNat = (rdsec s).limit := by
  have hno : s.clearDecode.noSync s.clearDecode.cur.toNat :=
    State.noSync_of_runs_short fun p (hp : s.cur.toNat ≤ p) (hroom : p + 10 ≤ s.limit) => by omega
  have hcode : (rdsec s).code = codeBits .eSync := by
    rw [rdsec_of_header_failed (syncRead_of_noSync (s := s.clearDecode) hdrRaw h.le hno)]
    exact State.endCommand_code ..
  have hne : (rdsec s).code ≠ codeBits .ok := by rw [hcode]; decide
  exact ⟨hne, rdsec_exhausts h.le hne⟩

theorem State.trackSlot_eq_none {s : State} (h : s.code ≠ codeBits .ok) : s.trackSlot = none :=
  if_neg h

theorem trackPass_of_exhausted (n : Nat) {s : State} (h : s.cur.toNat = s.limit) :
    trackPass n s = List.replicate n none := by
  induction n generalizing s with
  | zero => rfl
  | succ n ih =>
    obtain ⟨hcode, hcur⟩ := rdsec_of_exhausted h
    rw [trackPass, State.trackSlot_eq_none hcode, ih hcur, List.replicate_succ]

/-- Settles O32: the failing `RDSEC` leaves the cursor at `LIMIT`, where every later one fails. -/
theorem trackPassAfterFailureIsAbsent : Obligations.TrackPassAfterFailureIsAbsent := by
  intro s t n hle hexec hcode
  obtain rfl : rdsec s = t := exec_eq_next_iff.1 hexec
  rw [trackPass, State.trackSlot_eq_none hcode,
    trackPass_of_exhausted n (rdsec_exhausts hle hcode), List.replicate_succ]

/-- Slot `k` of a pass is what its `k + 1`st `RDSEC` leaves (R137). -/
theorem trackPass_getElem? {n k : Nat} (s : State) (h : k < n) :
    (trackPass n s)[k]? = some (rdsec^[k + 1] s).trackSlot := by
  induction n generalizing s k with
  | zero => exact absurd h (Nat.not_lt_zero k)
  | succ n ih =>
    cases k with
    | zero => rfl
    | succ k =>
      rw [trackPass, List.getElem?_cons_succ, ih _ (Nat.lt_of_succ_lt_succ h)]
      rfl

/-! ## The track pass as a host program (30_encoding.md R96; 41_bit_cursor_sync.md R137) -/

/-- A write of `RDSEC` to `CMD` runs it; it neither reads nor changes the host's fields (R23). -/
theorem step_rdsec {s : State} (c : Byte) (rest : List HostEvent)
    (hbase : s.params.gdbBase % 4 = 0) :
    step (s.withHost c (commandWrite s.params .rdsec :: rest)) =
      .next ((rdsec s).withHost (opcode .rdsec) rest) := by
  have hstep := step_of_write_cmd (s := s.withHost c (commandWrite s.params .rdsec :: rest)) rfl
    (resolve_reg hbase .cmd)
  exact hstep.trans (congrArg Host.Outcome.next (rdsec_withHost (opcode .rdsec) rest s))

/-- Writes of `RDSEC` to `CMD` run that many `RDSEC`s, one a step. -/
theorem run_rdsecs {s : State} (k : Nat) (c : Byte) (rest : List HostEvent)
    (hbase : s.params.gdbBase % 4 = 0) :
    ∃ c', core.run k
        (s.withHost c (List.replicate k (commandWrite s.params .rdsec) ++ rest)) =
      .next ((rdsec^[k] s).withHost c' rest) := by
  induction k generalizing s c with
  | zero => exact ⟨c, rfl⟩
  | succ k ih =>
    have hparams : (rdsec s).params = s.params := regFrame_params (commandEnd_regFrame .rdsec s)
    obtain ⟨c', hrun⟩ := ih (s := rdsec s) (opcode .rdsec) (hparams ▸ hbase)
    rw [hparams] at hrun
    exact ⟨c', (run_succ (M := core) (step_rdsec c _ hbase) k).trans hrun⟩

/-- The track pass's program is the loading of the track and one write of `RDSEC` a slot (R137). -/
theorem programEvents_trackPassLines (p : Config.Params) (track : Byte) (bytes : List Byte) :
    programEvents p (trackPassLines track bytes) = lineEvents p (.loadTrack bytes) ++
      List.replicate (trackSlots track) (commandWrite p .rdsec) := by
  have hcmds (n : Nat) : (List.replicate n (HostLine.cmd .rdsec)).flatMap (lineEvents p) =
      List.replicate n (commandWrite p .rdsec) := by
    rw [List.flatMap_def, List.map_replicate]
    exact List.flatten_replicate_singleton
  rw [programEvents, trackPassLines, List.flatMap_cons, hcmds]

/-- The track pass's program after the load and `k` of its `RDSEC`s: the rest of its `RDSEC`s is
still to come (R137). -/
theorem run_trackPass {s : State} {track : Byte} {bytes : List Byte} {rest : List HostEvent}
    (hbase : s.params.gdbBase % 4 = 0) (hfit : bytes.length ≤ 65535)
    (hp : s.pending = programEvents s.params (trackPassLines track bytes) ++ rest) {k m : Nat}
    (hk : trackSlots track = k + m) :
    ∃ c, core.run (bytes.length + 1 + k) s =
      .next ((rdsec^[k] (s.loadTrack bytes)).withHost c
        (List.replicate m (commandWrite s.params .rdsec) ++ rest)) := by
  rw [programEvents_trackPassLines, List.append_assoc, hk, ← List.replicate_append_replicate,
    List.append_assoc] at hp
  obtain ⟨c, hrun⟩ := run_rdsecs (s := s.loadTrack bytes) k s.cmd
    (List.replicate m (commandWrite s.params .rdsec) ++ rest) hbase
  exact ⟨c, (run_add (M := core) (run_loadTrack hbase hfit hp) k).trans hrun⟩

/-- The number of slots of a track in the order of the zones (R137, R160). -/
theorem trackSlots_eq_zones (track : Byte) : trackSlots track =
    if track.toNat ≤ 17 then 21 else if track.toNat ≤ 24 then 19
      else if track.toNat ≤ 30 then 18 else 17 := by
  rw [trackSlots, sectorsPerTrack_eq_zones]
  split_ifs <;> rfl

/-- Settles O53: slot `k` of the pass is what the program's run shows after `k + 1` `RDSEC`s. -/
theorem standardTrackPassRunsOnTheBlock : Obligations.StandardTrackPassRunsOnTheBlock := by
  intro s track bytes rest hbase hfit hp slots pass
  have hslots : trackSlots track = slots := trackSlots_eq_zones track
  refine ⟨(trackPass_length _ _).trans hslots, fun k hk => ?_, ?_⟩
  · rw [← hslots] at hk
    obtain ⟨m, hm⟩ := Nat.exists_eq_add_of_le (Nat.succ_le_of_lt hk)
    obtain ⟨c, hrun⟩ := run_trackPass hbase hfit hp hm
    exact ⟨_, hrun, trackPass_getElem? _ hk⟩
  · obtain ⟨c, hrun⟩ := run_trackPass (m := 0) hbase hfit hp hslots
    exact ⟨_, hrun, rfl⟩

end Sys2Proof.Machine

namespace Sys2Proof.Machine

/-! ## The header family: the synthesised header's bits, the literal scan, the spans of a sweep -/

/-- A value followed by the three bytes of a 24-bit value is that value followed by it whole (R66). -/
theorem append_bytes {w : Nat} (x : BitVec w) (v : BitVec 24) :
    (x ++ v.extractLsb' 16 8 ++ v.extractLsb' 8 8 ++ v.extractLsb' 0 8 : BitVec (w + 24)) =
      x ++ v := by
  conv_rhs => rw [← bytes_append v]
  simp only [BitVec.append_assoc, BitVec.cast_eq]

theorem sixBits_eq (a x : Byte) (n : Config.NibbleSource) : sixBits a x n = t6 (nibbleAt a x n) := by
  cases n <;> rfl

theorem pairBits_eq (o : Config.PairOrder) (a x : Byte) : pairBits o a x = pairWord o a x := by
  simp only [pairBits, pairWord, sixBits_eq]

/-- The 56 bits of a synthesised header: the lead byte and the words of its two pairs (R163). -/
theorem synthesizeHeader_append (o : Config.PairOrder) (track sector : Byte) :
    let h := synthesizeHeader o track sector
    (h[0] ++ h[1] ++ h[2] ++ h[3] ++ h[4] ++ h[5] ++ h[6] : BitVec 56) =
      0x75#8 ++ pairWord o track sector ++
        pairWord o (track ^^^ sector ^^^ 0x96#8) 0x96#8 := by
  obtain ⟨h0, h1, h2, h3, h4, h5, h6⟩ := synthesizeHeader_bytes o track sector
  dsimp only
  rw [h0, h1, h2, h3, h4, h5, h6, append_bytes (0x75#8), append_bytes]

/-- Under the spec's order a pair's word is `x` high, `x` low, `a` high, `a` low (R162). -/
theorem pairWord_pairOrder (a x : Byte) : pairWord pairOrder a x =
    t6 (x.extractLsb' 4 4) ++ t6 (x.extractLsb' 0 4) ++
      t6 (a.extractLsb' 4 4) ++ t6 (a.extractLsb' 0 4) := rfl

/-- The constant half of the second pair: `T6[9]` and `T6[6]`, the nibbles of 0x96 (R161, R163). -/
theorem t6_rlXor : t6 ((0x96#8).extractLsb' 4 4) = 0b110101#6 ∧
    t6 ((0x96#8).extractLsb' 0 4) = 0b101110#6 := by decide

/-- Under the spec's order the second pair begins with the byte 0xD6 (R168 (3)). -/
theorem pairWord_pairOrder_lead (c : Byte) :
    (pairWord pairOrder c 0x96#8).extractLsb' 16 8 = 0xD6#8 := by
  obtain ⟨hhi, hlo⟩ := t6_rlXor
  rw [pairWord_pairOrder, hhi, hlo, BitVec.extractLsb'_append_eq_of_le (by decide),
    BitVec.extractLsb'_append_eq_of_le (by decide)]
  rfl

/-- Settles O51: the tables written out. -/
theorem constantTables : Obligations.ConstantTables := by
  exact ⟨rfl, rfl, rfl⟩

/-- Settles O33: `HDR` is the synthesised header, whose words under the spec's order are those of
`pairWord_pairOrder`. -/
theorem rlhdrSynthesizesHeader : Obligations.RlhdrSynthesizesHeader := by
  intro s c hi lo
  have hheader := synthesizeHeader_append s.params.pairOrder s.trk s.sec
  refine ⟨rlhdr s, exec_eq_commandEnd .rlhdr s, ⟨?_, fun ho => ?_⟩, rfl,
    commandEnd_regFrame .rlhdr s, commandEnd_ramFrame .rlhdr s⟩
  · rw [pairBits_eq, pairBits_eq]
    exact hheader
  · obtain ⟨hhi, hlo⟩ := t6_rlXor
    refine hheader.trans ?_
    rw [ho, pairWord_pairOrder, pairWord_pairOrder, hhi, hlo]
    rfl

/-- Settles O34: byte 4 is the first byte of the second pair. -/
theorem headersOfATrackAreDistinct : Obligations.HeadersOfATrackAreDistinct := by
  intro o track sector ho
  obtain ⟨_, _, _, _, h4, _⟩ := synthesizeHeader_bytes pairOrder track sector
  exact ⟨fun _ => synthesizeHeader_injective ho, (synthesizeHeader_bytes o track sector).1,
    h4.trans (pairWord_pairOrder_lead _)⟩

/-- `RLFIND` where the scan finds `HDR` (R166). -/
theorem rlfind_of_some {s : State} {p : Nat} (h : s.findFirst s.hdr = some p) :
    rlfind s = (s.setPos (posWord (some p))).endCommand .ok false := by
  simp [rlfind, h]

/-- `RLFIND` where the scan finds nothing (R166). -/
theorem rlfind_of_none {s : State} (h : s.findFirst s.hdr = none) :
    rlfind s = (s.setPos (posWord none)).endCommand .eNoMatch false := by
  simp [rlfind, h]

/-- Settles O35: the scan of `RLFIND` delivers the first match, or finds none where there is none. -/
theorem rlfindReportsFirstMatch : Obligations.RlfindReportsFirstMatch := by
  intro s
  refine ⟨fun p hp => ?found, fun hnone => ?missing⟩
  case found =>
    have hend := rlfind_of_some ((s.findFirst_eq_some_iff s.hdr p).2 hp)
    have hroom := State.room_lt hp.1.1
    have hpos : (rlfind s).pos.toInt = p := hend ▸ posWord_some_toInt (by omega)
    exact ⟨rlfind s, exec_eq_commandEnd .rlfind s, hpos, hend ▸ rfl,
      commandEnd_regFrame .rlfind s, commandEnd_ramFrame .rlfind s⟩
  case missing =>
    have hend := rlfind_of_none ((s.findFirst_eq_none_iff s.hdr).2 hnone)
    exact ⟨rlfind s, exec_eq_commandEnd .rlfind s, hend ▸ posWord_none_toInt, hend ▸ rfl,
      commandEnd_regFrame .rlfind s, commandEnd_ramFrame .rlfind s⟩

/-- The word of `ORDPOS` at a found index, as a span reads it (R45, R169). -/
theorem rlsweep_ordpos_toNat {s : State} {i : Nat} (h : i < s.foundSlots.length) :
    ((rlsweep s).ordpos[i]?.getD 0#32).toNat = s.foundSlots[i].1 := by
  have hi : i < 21 := by
    have := s.foundSlots_length_le
    have := sectorsPerTrack_le s.trk
    omega
  obtain ⟨_, hpos, _⟩ := rlsweep_found (i := ⟨i, hi⟩) h
  rw [Vector.getElem?_eq_getElem hi]
  exact hpos

/-- A span of a swept track starts at its slot's position (R169). -/
theorem rlsweep_span_start {s : State} {i : Nat} (h : i < s.foundSlots.length) :
    ((rlsweep s).span i).2.1 = s.foundSlots[i].1 := rlsweep_ordpos_toNat h

/-- A span of a swept track ends at the next found position (R169). -/
theorem rlsweep_span_end {s : State} {i : Nat} (h : i + 1 < s.foundSlots.length) :
    ((rlsweep s).span i).2.2 = s.foundSlots[i + 1].1 := by
  rw [State.span, rlsweep_nfound, if_pos h, rlsweep_ordpos_toNat h]

/-- The last span of a swept track ends at `TBLEN` (R169). -/
theorem rlsweep_span_end_last {s : State} {i : Nat} (h : s.foundSlots.length ≤ i + 1) :
    ((rlsweep s).span i).2.2 = s.tblen.toNat := by
  rw [State.span, rlsweep_nfound, if_neg (by omega)]
  rfl

/-- Settles O38: a span ends at the next found position, which is greater and leaves room for a
header, or at `TBLEN`. -/
theorem sweptSpansAreLegal : Obligations.SweptSpansAreLegal := by
  intro s t ho h i hi
  rw [← exec_eq_next_iff.1 h] at hi ⊢
  have hi : i < s.foundSlots.length := rlsweep_nfound s ▸ hi
  have htblen : (rlsweep s).tblen = s.tblen := rfl
  obtain ⟨_, _, hroom⟩ := State.foundSlots_getElem hi
  rw [commandEnd, rlsweep_span_start hi, htblen]
  rcases Nat.lt_or_ge (i + 1) s.foundSlots.length with hnext | hlast
  · obtain ⟨_, _, hroom'⟩ := State.foundSlots_getElem hnext
    have hlt : s.foundSlots[i].1 < s.foundSlots[i + 1].1 :=
      List.pairwise_iff_getElem.1 (State.foundSlots_pairwise_lt ho) i (i + 1) hi hnext (by omega)
    rw [rlsweep_span_end hnext]
    omega
  · rw [rlsweep_span_end_last hlast]
    omega

end Sys2Proof.Machine

namespace Sys2Proof.Machine

/-! ## The payload family: the kept bits of a triple, the payload of a buffer, the marker window -/

/-- Bit `i` of the kept bits stands at bit `i + i / 2` of the triple's value: each 3-bit group keeps
its low two bits (R193). -/
theorem keptBits_bit (v : BitVec 24) {i : Nat} (hi : i < 16) :
    (keptBits v).getLsbD i = v.getLsbD (i + i / 2) := by
  unfold keptBits
  interval_cases i
  all_goals
    simp only [BitVec.getLsbD_append, BitVec.getLsbD_ofBool]
    simp

/-- The unscrambler's word of a triple is the complement of its kept bits (R193). -/
theorem tripleWord_eq_not_keptBits (b1 b2 b3 : Byte) :
    tripleWord b1 b2 b3 = ~~~ keptBits (b1 ++ b2 ++ b3) := by
  have hones : 0xFFFF#16 = BitVec.allOnes 16 := rfl
  simp only [tripleWord]
  generalize b1 ++ b2 ++ b3 = v
  rw [hones, BitVec.xor_allOnes]
  refine congrArg (~~~ ·) (BitVec.eq_of_getLsbD_eq fun i hi => ?_)
  rw [keptBits_bit v hi]
  interval_cases i
  all_goals
    simp only [BitVec.getLsbD_append, BitVec.getLsbD_extractLsb']
    simp

/-- A 24-bit value whose kept bits are those of `w`: each place takes the bit that is kept there, and
the top bit of each group is one no result sees (R193, R199). -/
def spreadBits (w : BitVec 16) : BitVec 24 := BitVec.ofFnLE fun p => w.getLsbD (p.val - p.val / 3)

theorem keptBits_spreadBits (w : BitVec 16) : keptBits (spreadBits w) = w := by
  refine BitVec.eq_of_getLsbD_eq fun i hi => ?_
  rw [keptBits_bit _ hi, spreadBits, BitVec.getLsbD_ofFnLE, dif_pos (by omega)]
  exact congrArg w.getLsbD (by dsimp only; omega)

/-- The mask 0x6DB6DB has every kept bit (R193). -/
theorem keptMask_bit {i : Nat} (hi : i < 16) : (0x6DB6DB#24).getLsbD (i + i / 2) = true := by
  interval_cases i <;> rfl

/-- The kept bits see a value through the mask 0x6DB6DB only (R193). -/
theorem keptBits_and_mask (v : BitVec 24) : keptBits (v &&& 0x6DB6DB#24) = keptBits v := by
  refine BitVec.eq_of_getLsbD_eq fun i hi => ?_
  rw [keptBits_bit _ hi, keptBits_bit _ hi, BitVec.getLsbD_and, keptMask_bit hi, Bool.and_true]

/-- Settles O39: the complement undoes itself, so the triple of the complement's spread bits gives any
value wanted. -/
theorem tripleKeepsSixteenBits : Obligations.TripleKeepsSixteenBits := by
  refine ⟨fun b1 b2 b3 => ?_, fun v v' h => ?_, fun w => ⟨spreadBits (~~~ w), ?_⟩⟩
  · rw [← tripleWord_eq_not_keptBits]
    rfl
  · rw [← keptBits_and_mask v, h, keptBits_and_mask]
  · rw [keptBits_spreadBits, BitVec.not_not]

/-- What `UNSCR` and `RLPAY` deliver of the scrambled bytes `byte 0`, `byte 1`, ... with `q` whole
triples: the two lengths, and each triple's two bytes in `OB`, high byte first (R193 to R196). -/
structure DeliversPayload (q : Nat) (byte : Nat → Byte) (t : State) : Prop where
  rawlen : t.rawlen.toNat = 2 * q
  olen : t.olen.toNat = 2 * q - 4
  pair : ∀ i, i < q → (t.obByte (2 * i) ++ t.obByte (2 * i + 1) : BitVec 16) =
    ~~~ keptBits (byte (3 * i) ++ byte (3 * i + 1) ++ byte (3 * i + 2))

/-- A delivered byte of a payload, by its place in it (R195, R196). -/
theorem State.putPayload_obByte_of_getElem? (s : State) {r : List Byte} {k : Nat} {b : Byte}
    (h : r[k]? = some b) : (s.putPayload r).obByte k = b := by
  obtain ⟨hk, hb⟩ := List.getElem?_eq_some_iff.1 h
  rw [State.putPayload_obByte, dif_pos hk, hb]

/-- The end of a payload command delivers the payload of at most 582 scrambled bytes (R195, R196). -/
theorem delivers_putPayload (s : State) {q : Nat} {d : List Byte} {byte : Nat → Byte}
    (hq : d.length / 3 = q) (hlen : d.length ≤ 582)
    (hbyte : ∀ j (h : j < d.length), d[j] = byte j) :
    DeliversPayload q byte ((s.putPayload (unscramble d)).endCommand .ok false) := by
  obtain ⟨hraw, hpairs⟩ := unscramble_spec q d hq
  have hgetD : ∀ j, j < d.length → d.getD j 0#8 = byte j := fun j hj => by
    rw [List.getD_eq_getElem _ _ hj, hbyte j hj]
  refine ⟨?_, ?_, fun i hi => ?_⟩
  · rw [State.endCommand_rawlen, State.putPayload_rawlen, hraw, BitVec.toNat_ofNat]
    omega
  · have htrailer : rlTrailer = 4 := rfl
    rw [State.endCommand_olen, State.putPayload_olen, hraw, BitVec.toNat_ofNat]
    omega
  · obtain ⟨hhigh, hlow⟩ := hpairs i hi
    rw [State.endCommand_obByte, s.putPayload_obByte_of_getElem? hhigh,
      s.putPayload_obByte_of_getElem? hlow, hgetD _ (by omega), hgetD _ (by omega),
      hgetD _ (by omega), tripleWord_eq_not_keptBits]
    exact BitVec.extractLsb'_append_extractLsb'

/-- `UNSCR` delivers the payload of the first bytes of `WB` (R195). -/
theorem unscr_delivers (s : State) :
    DeliversPayload (min s.wlen.toNat 582 / 3) s.wbByte (unscr s) := by
  have hlen : (s.wbBytes (min s.wlen.toNat rlTake)).length = min s.wlen.toNat 582 :=
    s.wbBytes_length _
  exact delivers_putPayload s (by rw [hlen]) (by omega) fun j hj => s.wbBytes_getElem _ j hj

/-- Settles O40. -/
theorem unscrUnscramblesWorkBuffer : Obligations.UnscrUnscramblesWorkBuffer := by
  intro s triples
  obtain ⟨hraw, holen, hpair⟩ := unscr_delivers s
  exact ⟨unscr s, exec_eq_commandEnd .unscr s, hraw, holen, hpair, rfl,
    commandEnd_regFrame .unscr s, hraw ▸ commandEnd_ramFrame .unscr s⟩

/-- `RLPAY` on a span outside the valid track data (R196). -/
theorem rlpay_of_illegal {s : State}
    (h : s.spanEnd.toNat < s.spanStart.toNat ∨ s.tblen.toNat < s.spanEnd.toNat) :
    rlpay s = s.endCommand .eRange false := if_pos h

section
variable {s : State} (hspan : s.spanStart.toNat ≤ s.spanEnd.toNat)
  (htrack : s.spanEnd.toNat ≤ s.tblen.toNat)
include hspan htrack

/-- `RLPAY` on a legal span whose window holds no marker (R196). -/
theorem rlpay_of_no_marker
    (h : ∀ p, ¬ s.markerMatches s.spanStart.toNat s.spanEnd.toNat p) :
    rlpay s = s.clearPayload.endCommand .eNoMark false := by
  unfold rlpay
  dsimp only
  rw [if_neg (by omega), (s.findMarker_eq_none_iff _ _).2 h]

/-- `RLPAY` on a legal span whose first marker stands at `m` (R196). -/
theorem rlpay_of_marker {m : Nat} (h : s.markerFirst s.spanStart.toNat s.spanEnd.toNat m) :
    rlpay s = (s.putPayload (unscramble
      (s.tbSpan (m + 2) (min (m + 2 + rlTake) s.spanEnd.toNat)))).endCommand .ok false := by
  unfold rlpay
  dsimp only
  rw [if_neg (by omega), State.findMarker_eq_some h]

/-- `RLPAY` delivers the payload of the bytes after the first marker, up to the span's end (R196). -/
theorem rlpay_delivers {m : Nat} (h : s.markerFirst s.spanStart.toNat s.spanEnd.toNat m) :
    DeliversPayload (min 582 (s.spanEnd.toNat - (m + 2)) / 3) (fun j => s.tbByte (m + 2 + j))
      (rlpay s) := by
  have hlen : (s.tbSpan (m + 2) (min (m + 2 + rlTake) s.spanEnd.toNat)).length =
      min 582 (s.spanEnd.toNat - (m + 2)) := by
    have htake : rlTake = 582 := rfl
    rw [State.tbSpan_length]
    omega
  rw [rlpay_of_marker hspan htrack h]
  exact delivers_putPayload s (by rw [hlen]) (by omega) fun j hj => s.tbSpan_getElem _ _ j hj

end

/-- Settles O41. -/
theorem rlpayUnscramblesSpan : Obligations.RlpayUnscramblesSpan := by
  intro s m hspan htrack hm triples d
  obtain ⟨hraw, holen, hpair⟩ := rlpay_delivers hspan htrack hm
  exact ⟨rlpay s, exec_eq_commandEnd .rlpay s, hraw, holen, hpair,
    rlpay_of_marker hspan htrack hm ▸ rfl, commandEnd_regFrame .rlpay s,
    hraw ▸ commandEnd_ramFrame .rlpay s⟩

/-- Settles O42. -/
theorem rlpayFailures : Obligations.RlpayFailures := by
  refine fun s => ⟨fun hillegal => ?_, fun hspan htrack hnone => ?_⟩
  · have hend := rlpay_of_illegal hillegal
    exact ⟨rlpay s, exec_eq_commandEnd .rlpay s, hend, hend ▸ ramSame_of_buffers_eq rfl rfl rfl⟩
  · have hend := rlpay_of_no_marker hspan htrack hnone
    exact ⟨rlpay s, exec_eq_commandEnd .rlpay s, hend, hend ▸ ramSame_of_buffers_eq rfl rfl rfl⟩

/-- Settles O44: a marker whole inside the 32-byte window starts at one of its first 31 bytes. -/
theorem lateMarkerIsNotFound : Obligations.LateMarkerIsNotFound := by
  intro s t hspan htrack hlate hexec
  have hnone : ∀ p, ¬ s.markerMatches s.spanStart.toNat s.spanEnd.toNat p := by
    rintro p ⟨hfirst, hlast, hbyte0, hbyte1⟩
    rcases hlate p hfirst (by omega) with hne | hne
    · exact hne hbyte0
    · exact hne hbyte1
  rw [← exec_eq_next_iff.1 hexec, commandEnd, rlpay_of_no_marker hspan htrack hnone]
  exact State.endCommand_code ..

end Sys2Proof.Machine

namespace Sys2Proof.Machine

/-! ## The control family: `NOP`, and the element lines of a host program (44_control.md R220,
R222) -/

/-- `NOP` ends with `OK`, number 0, and `DF` 0 (R220, R240). -/
theorem exec_nop (s : State) : exec .nop s = .next { s with status := 0b00000#5 } :=
  exec_eq_commandEnd _ s

/-- Settles O11. -/
theorem nopOnlyClearsStatus : Obligations.NopOnlyClearsStatus :=
  fun s => ⟨_, exec_nop s, rfl, ramSame_of_buffers_eq rfl rfl rfl⟩

/-- There is no fault (R247), so a step that is not refused has a next state. -/
theorem step_next_iff_not_refused (s : State) :
    (∃ t, step s = .next t) ↔ ¬ ∃ r, step s = .refused r := by
  cases step s with
  | next t => simp
  | fault f => exact nomatch f
  | refused r => simp

section
variable {s : State} {sp : Space} {i : Nat} {v : Word} {rest : List HostEvent}
  (hline : s.pending = lineEvents s.params (.rde sp i) ++ rest ∨
    s.pending = lineEvents s.params (.wre sp i v) ++ rest)
include hline

/-- A line on an element its space has is an access at that element's address (R95). -/
theorem nextAccess_of_elemLine (hi : i < spaceCount sp) :
    s.nextAccess 32 (s.params.gdbBase + spaceBase sp + 4 * i) rest := by
  rw [lineEvents, lineEvents, elemRead_of_lt _ hi, elemWrite_of_lt _ _ hi] at hline
  exact hline.imp_right fun hwrite => ⟨v, hwrite⟩

/-- A line on an element its space does not have, read or write, is an access outside it (R222). -/
theorem pending_of_elemLine_of_ge (hi : spaceCount sp ≤ i) :
    s.pending = .outside sp i :: rest := by
  rw [lineEvents, lineEvents, elemRead_of_ge _ hi, elemWrite_of_ge _ _ hi, or_self] at hline
  exact hline

/-- A line on an element is refused exactly when its space does not have the element (R222). -/
theorem step_refused_of_elemLine_iff (hbase : s.params.gdbBase % 4 = 0) :
    (∃ r, step s = .refused r) ↔ spaceCount sp ≤ i := by
  rcases Nat.lt_or_ge i (spaceCount sp) with hi | hi
  · have htarget := resolve_elem hbase hi
    rw [step_refused_of_access_iff (nextAccess_of_elemLine hline hi)]
    exact iff_of_false (fun hno => hno ⟨_, htarget⟩) (Nat.not_le.2 hi)
  · exact iff_of_true ⟨_, step_of_outside (pending_of_elemLine_of_ge hline hi)⟩ hi

end

/-- Settles O52: the accesses that are not refused are those that have a next state. -/
theorem outOfRangeElementsAreRefused : Obligations.OutOfRangeElementsAreRefused := by
  intro s sp i v rest hbase hline
  have hrefused := step_refused_of_elemLine_iff hline hbase
  exact ⟨hrefused, by rw [step_next_iff_not_refused, hrefused, Nat.not_le]⟩

end Sys2Proof.Machine

namespace Sys2Proof.Machine

/-! ## The exception family: one next state, and the result codes of each command
(60_exceptions.md R240, R247) -/

/-- Settles O8. -/
theorem everyCommandHasOneNextState : Obligations.EveryCommandHasOneNextState :=
  fun i s => ⟨commandEnd i s, exec_eq_commandEnd i s, fun _ h => (exec_eq_next_iff.1 h).symm⟩

/-- `STATUS.code` holds one of the codes `cs` (R24, R240). -/
def State.CodeIn (cs : List ResultCode) (t : State) : Prop := ∃ c ∈ cs, t.code = codeBits c

theorem State.codeIn_endCommand {cs : List ResultCode} {c : ResultCode} (h : c ∈ cs) (s : State)
    (df : Bool) : (s.endCommand c df).CodeIn cs := ⟨c, h, s.endCommand_code c df⟩

/-- A stage whose failures have codes in `cs` gives its command `OK` or one of those codes (R136,
R244). -/
theorem Stage.result_code_mem {D : State → Prop} {cs : List ResultCode} {st : Stage}
    (h : st.Sat D (fun c _ => c ∈ cs)) : st.result.1 ∈ ResultCode.ok :: cs := by
  rcases Stage.result_cases h with ⟨hok, _⟩ | hfail
  · rw [hok]
    exact List.mem_cons_self
  · exact List.mem_cons_of_mem _ hfail

/-- `find_sync()` fails with `E_SYNC` only (R134). -/
theorem findSync_fails_in {cs : List ResultCode} (h : .eSync ∈ cs) (s : State) :
    (findSync s).Sat (fun _ => True) (fun c _ => c ∈ cs) := by
  obtain ⟨n, he | he⟩ := findSync_moves_cursor s <;> rw [he]
  · trivial
  · exact h

/-- `read_bytes(n)` fails with `E_SHORT` only (R133). -/
theorem readBytes_fails_in {cs : List ResultCode} (h : .eShort ∈ cs) (n : Nat) (s : State) :
    (readBytes n s).Sat (fun _ => True) (fun c _ => c ∈ cs) := by
  rcases readBytes_cases n s with ⟨_, he⟩ | ⟨_, _, he⟩ <;> rw [he]
  · trivial
  · exact h

/-- The searches and the reads are the only steps of `RDSEC` that can fail (R136). -/
theorem sectorStages_fails_in (s : State) :
    (sectorStages s).Sat (fun _ => True) (fun c _ => c ∈ [.eSync, .eShort]) :=
  have hsync := findSync_fails_in (cs := [.eSync, .eShort]) (by decide)
  have hread := readBytes_fails_in (cs := [.eSync, .eShort]) (by decide)
  sectorStages_sat (fun _ => True) (fun _ => True) (fun _ => True) (fun _ => True) (fun _ => True)
    (fun _ => True) (hsync _) (fun t _ => hread hdrRaw t) (fun _ _ => trivial)
    (fun t _ => hsync t) (fun t _ => hread dataRaw t) (fun _ _ => trivial)

/-- The code every command ends with is in its row of R240: the branches of `GCRDEC` and `RLPAY` are
those of their case lemmas, and the commands made of stages end with the codes of their stages. -/
theorem commandEnd_codeIn (i : Instr) (s : State) : (commandEnd i s).CodeIn (possibleCodes i) := by
  cases i with
  | nop | rlhdr | rlsweep | unscr | illegal => exact State.codeIn_endCommand List.mem_cons_self _ _
  | gcrdec =>
    rcases gcrdec_cases s with ⟨_, he⟩ | ⟨_, _, _, _, he⟩ <;> rw [commandEnd, he] <;>
      exact State.codeIn_endCommand (by decide) _ _
  | rdbit =>
    rw [commandEnd, rdbit]
    split <;> exact State.codeIn_endCommand (by decide) _ _
  | rdbytes =>
    rw [commandEnd, rdbytes]
    split
    · exact State.codeIn_endCommand (by decide) _ _
    · have hmem := Stage.result_code_mem
        (readBytes_fails_in (cs := [.eShort, .eRange]) (by decide) s.cnt.toNat s)
      exact State.codeIn_endCommand hmem _ _
  | sync =>
    exact State.codeIn_endCommand
      (Stage.result_code_mem (findSync_fails_in (cs := [.eSync]) (by decide) s)) _ _
  | rdsec => exact State.codeIn_endCommand (Stage.result_code_mem (sectorStages_fails_in s)) _ _
  | rlfind =>
    refine State.codeIn_endCommand ?_ _ _
    split <;> decide
  | rlpay =>
    rcases rlpay_cases s with he | he | ⟨_, _, _, he⟩ <;> rw [commandEnd, he] <;>
      exact State.codeIn_endCommand (by decide) _ _

/-- `STATUS.code` is the number in the low four bits of `STATUS` (R24). -/
theorem State.code_toNat (t : State) : t.code.toNat = t.status.toNat % 16 := by
  rw [State.code, BitVec.extractLsb'_toNat, Nat.shiftRight_zero]

/-- Settles O15: a code of the command's row stands in `STATUS`, and no code's number exceeds 7. -/
theorem commandsEndWithTheirCodes : Obligations.CommandsEndWithTheirCodes := by
  intro i s t h
  obtain ⟨c, hc, hcode⟩ := commandEnd_codeIn i s
  rw [exec_eq_next_iff.1 h] at hcode
  refine ⟨c, hc, hcode, ?_⟩
  rw [← t.code_toNat, hcode]
  exact codeBits_toNat_le c

end Sys2Proof.Machine

namespace Sys2Proof.Machine

/-! ## The reset and hazard family: a cursor at `LIMIT` (70_reset_and_hazards.md R277) -/

/-- No command's row holds `TBLEN` (R48), so `LIMIT` stays. -/
theorem regFrame_limit {s t : State} {i : Instr} (h : regFrame s t i) : t.limit = s.limit := by
  cases i <;> (dsimp only [regFrame] at h; rw [h]; rfl)

/-- The code a command ends with is one of its row of R240. -/
theorem mem_possibleCodes_of_code {i : Instr} {s : State} {c : ResultCode}
    (h : (commandEnd i s).code = codeBits c) : c ∈ possibleCodes i := by
  obtain ⟨c', hmem, hcode⟩ := commandEnd_codeIn i s
  rwa [codeBits_injective (h.symm.trans hcode)]

/-- A command made of stages that exhaust the cursor where they fail leaves it at `LIMIT` unless it
ends with `OK` (R133, R134). -/
theorem Stage.endCommand_exhausts {st : Stage} {df : Bool}
    (hst : st.Sat (fun t => t.cur.toNat ≤ t.limit) (fun _ t => t.cur.toNat = t.limit))
    (hcode : (st.result.2.endCommand st.result.1 df).code ≠ codeBits .ok) :
    st.result.2.cur.toNat = st.result.2.limit := by
  rcases Stage.result_cases hst with ⟨hok, _⟩ | hfailed
  · rw [State.endCommand_code, hok] at hcode
    exact absurd rfl hcode
  · exact hfailed

/-- Only the four cursor commands can end with `E_SYNC` or `E_SHORT`, and each of them exhausts the
cursor where it does (R277). -/
theorem commandEnd_exhausts {i : Instr} {s : State} (hle : s.cur.toNat ≤ s.limit)
    (hcode : (commandEnd i s).code = codeBits .eSync ∨ (commandEnd i s).code = codeBits .eShort) :
    (commandEnd i s).cur.toNat = (commandEnd i s).limit := by
  have hrow := hcode.imp mem_possibleCodes_of_code mem_possibleCodes_of_code
  have hne : (commandEnd i s).code ≠ codeBits .ok := by
    rcases hcode with h | h <;> rw [h] <;> decide
  cases i with
  | rdbit =>
    rcases Nat.lt_or_ge s.cur.toNat s.limit with hlt | hge
    · have hend : rdbit s = _ := if_neg (Nat.not_le.2 hlt)
      rw [commandEnd, hend] at hne
      exact absurd (State.endCommand_code ..) hne
    · have hend : rdbit s = s.endCommand .eShort false := if_pos hge
      rw [commandEnd, hend]
      exact Nat.le_antisymm hle hge
  | rdbytes =>
    rcases Nat.lt_or_ge 1024 s.cnt.toNat with hcnt | hcnt
    · have hend : rdbytes s = s.endCommand .eRange false := if_pos hcnt
      rw [commandEnd, hend, State.endCommand_code] at hcode
      exact absurd hcode (by decide)
    · rw [commandEnd, rdbytes_of_le hcnt] at hne ⊢
      exact Stage.endCommand_exhausts (readBytes_exhausts _ hle) hne
  | sync => exact Stage.endCommand_exhausts (findSync_exhausts hle) hne
  | rdsec => exact rdsec_exhausts hle hne
  | _ => exact absurd hrow (by simp [possibleCodes])

section
variable {s : State} (h : s.cur.toNat = s.limit)
include h

theorem State.setCur_limit_of_exhausted : s.setCur s.limit = s := by
  rw [← h, State.setCur, BitVec.ofNat_toNat, BitVec.setWidth_eq]

/-- No bit is left for a boundary (R134). -/
theorem State.noSync_of_exhausted : s.noSync s.cur.toNat := by
  rintro k ⟨hroom, hlt, _⟩
  omega

/-! What each cursor command does with the cursor at `LIMIT`: it ends with its code and moves
nothing (R131 to R136). -/

theorem rdbit_of_exhausted : rdbit s = s.endCommand .eShort false := if_pos h.ge

theorem sync_of_exhausted : sync s = s.endCommand .eSync false := by
  rw [sync_of_noSync h.le (State.noSync_of_exhausted h), State.setCur_limit_of_exhausted h]

theorem rdsec_eq_of_exhausted : rdsec s = s.clearDecode.endCommand .eSync false := by
  have hclear : s.clearDecode.cur.toNat = s.clearDecode.limit := h
  rw [rdsec_of_header_failed (syncRead_of_noSync hdrRaw hclear.le
    (State.noSync_of_exhausted hclear)), State.setCur_limit_of_exhausted hclear]

theorem rdbytes_of_exhausted (hcnt : 0 < s.cnt.toNat) : rdbytes s =
    s.endCommand (if s.cnt.toNat ≤ 1024 then .eShort else .eRange) false := by
  split
  case isTrue hle =>
    rw [rdbytes_of_le hle, readBytes_of_gt h.le (by omega), State.setCur_limit_of_exhausted h]
    rfl
  case isFalse hgt => exact if_pos (Nat.not_le.1 hgt)

/-- `RDBYTES` of no byte ends with `OK` even at `LIMIT` (R133). -/
theorem rdbytes_of_exhausted_zero (hcnt : s.cnt.toNat = 0) :
    rdbytes s = (s.putWork []).endCommand .ok false := by
  have hread : readBytes 0 s = .done (s.putWork []) := by
    rw [readBytes_of_le h.le, Nat.mul_zero, Nat.add_zero, h]
    exact congrArg Stage.done (State.setCur_limit_of_exhausted (s := s.putWork []) h)
  rw [rdbytes_of_le (by omega), hcnt, hread]
  rfl

/-- No command moves a cursor at `LIMIT` (R277). -/
theorem commandEnd_cur_of_exhausted (i : Instr) : (commandEnd i s).cur = s.cur := by
  have hregs := commandEnd_regFrame i s
  cases i with
  | rdbit => rw [commandEnd, rdbit_of_exhausted h, State.endCommand_cur]
  | sync => rw [commandEnd, sync_of_exhausted h, State.endCommand_cur]
  | rdsec => rw [commandEnd, rdsec_eq_of_exhausted h, State.endCommand_cur, State.clearDecode_cur]
  | rdbytes =>
    rcases Nat.eq_zero_or_pos s.cnt.toNat with hcnt | hcnt
    · rw [commandEnd, rdbytes_of_exhausted_zero h hcnt, State.endCommand_cur, State.putWork_cur]
    · rw [commandEnd, rdbytes_of_exhausted h hcnt, State.endCommand_cur]
  | _ => dsimp only [regFrame] at hregs; rw [hregs]

end

/-- Settles O31: the failing command exhausts the cursor, and with an exhausted cursor each cursor
command fails where it stands. -/
theorem cursorStaysExhausted : Obligations.CursorStaysExhausted := by
  refine ⟨fun i s t hle hexec hcode => ?_, fun s h => ⟨fun i t hexec => ?_, ?_, ?_, ?_, ?_⟩⟩
  · obtain rfl : commandEnd i s = t := exec_eq_next_iff.1 hexec
    exact (commandEnd_exhausts hle hcode).trans (regFrame_limit (commandEnd_regFrame i s))
  · obtain rfl : commandEnd i s = t := exec_eq_next_iff.1 hexec
    exact ⟨commandEnd_cur_of_exhausted h i, regFrame_limit (commandEnd_regFrame i s)⟩
  · exact ⟨rdbit s, rfl, rdbit_of_exhausted h ▸ State.endCommand_code ..⟩
  · exact ⟨sync s, rfl, sync_of_exhausted h ▸ State.endCommand_code ..⟩
  · exact ⟨rdsec s, rfl, rdsec_eq_of_exhausted h ▸ State.endCommand_code ..⟩
  · exact fun hcnt => ⟨rdbytes s, rfl, rdbytes_of_exhausted h hcnt ▸ State.endCommand_code ..⟩

/-! ## The external reset (70_reset_and_hazards.md R270; 10_state.md R50, R51) -/

theorem step_of_reset {s : State} {rest : List HostEvent} (hp : s.pending = .reset :: rest) :
    step s = .next ({ s with pending := rest }).externalReset := by
  simp [step, nextAction, hp]

/-- After the external reset no RAM element has a value of its own (R51). -/
theorem State.externalReset_ramByte (s : State) (r : Config.ByteRam) (i : Nat) :
    s.externalReset.ramByte r i = Config.unwrittenByte s.externalReset.ramEpoch r i := by
  cases r <;> rfl

/-- Settles O2. -/
theorem externalResetRestoresResetState : Obligations.ExternalResetRestoresResetState :=
  fun _ _ hp => ⟨_, step_of_reset hp, rfl, State.externalReset_ramByte _, fun _ => rfl⟩

/-! ## The commands on an empty track and an empty work buffer (70_reset_and_hazards.md R271) -/

section
variable {s : State} (h : s.tblen = 0#16)
include h

/-- No header stands in an empty track (R165). -/
theorem State.findFirst_of_empty (hdr : Vector Byte 7) : s.findFirst hdr = none := by
  refine (s.findFirst_eq_none_iff hdr).2 ?_
  rintro p ⟨hroom, _⟩
  rw [h] at hroom
  exact absurd hroom (by simp)

/-- A sweep of an empty track finds no slot (R167). -/
theorem State.foundSlots_of_empty : s.foundSlots = [] := by
  refine List.eq_nil_iff_forall_not_mem.2 fun ⟨p, i⟩ hmem => ?_
  have hroom := State.slotPos_bound ((s.mem_foundSlots p i).1 hmem)
  rw [h] at hroom
  exact absurd hroom (by simp)

end

/-- `GCRDEC` of no byte is whole groups, and delivers none (R116). -/
theorem gcrdec_of_empty {s : State} (h : s.wlen = 0#11) :
    (gcrdec s).code = codeBits .ok ∧ (gcrdec s).olen = 0#11 := by
  rcases gcrdec_cases s with ⟨hmod, _⟩ | ⟨d, hbytes, _, _, hend⟩
  · exact absurd (by rw [h]; rfl) hmod
  · have hnil : d.bytes.length = 0 := by rw [hbytes, h]; rfl
    rw [hend, State.endCommand_code, State.endCommand_olen, State.putDecoded, State.putDiag_olen,
      State.putNibbles_olen, State.putOutput_olen, hnil]
    exact ⟨rfl, rfl⟩

/-- `UNSCR` of no byte delivers none (R195). -/
theorem unscr_of_empty {s : State} (h : s.wlen = 0#11) : (unscr s).olen = 0#11 := by
  obtain ⟨_, holen, _⟩ := unscr_delivers s
  refine BitVec.eq_of_toNat_eq (holen.trans ?_)
  rw [h]
  rfl

/-- An empty span has no marker window (R191). -/
theorem State.no_marker_of_empty_span {s : State} {st e : Nat} (h : e ≤ st) (p : Nat) :
    ¬ s.markerMatches st e p := by
  rintro ⟨hfirst, hlast, _⟩
  omega

/-- Settles O17: at reset the cursor stands at `LIMIT`, and track, work buffer and span are empty. -/
theorem commandsAfterReset : Obligations.CommandsAfterReset := by
  unfold Obligations.CommandsAfterReset
  intro s
  have hcur : s.cur.toNat = s.limit := rfl
  have hmiss := State.findFirst_of_empty (s := s) rfl s.hdr
  have hnone := State.no_marker_of_empty_span (s := s) (Nat.le_refl s.spanStart.toNat)
  obtain ⟨hgcrcode, hgcrlen⟩ := gcrdec_of_empty (s := s) rfl
  refine ⟨⟨sync s, rfl, ?_⟩, ⟨rdsec s, rfl, ?_⟩, ⟨rdbit s, rfl, ?_⟩, ⟨rdbytes s, rfl, ?_⟩,
    ⟨gcrdec s, rfl, hgcrcode, hgcrlen⟩, ⟨unscr s, rfl, rfl, unscr_of_empty rfl⟩,
    ⟨rlhdr s, rfl, rfl, by decide⟩, ⟨rlfind s, rfl, ?_⟩,
    ⟨rlsweep s, rfl, rfl, ?_, ?_⟩, ⟨rlpay s, rfl, ?_⟩⟩
  · exact sync_of_exhausted hcur ▸ State.endCommand_code ..
  · exact rdsec_eq_of_exhausted hcur ▸ State.endCommand_code ..
  · exact rdbit_of_exhausted hcur ▸ State.endCommand_code ..
  · exact rdbytes_of_exhausted_zero hcur rfl ▸ State.endCommand_code ..
  · exact rlfind_of_none hmiss ▸ State.endCommand_code ..
  · exact BitVec.eq_of_toNat_eq (rlsweep_nslot s)
  · refine BitVec.eq_of_toNat_eq ((rlsweep_nfound s).trans ?_)
    rw [State.foundSlots_of_empty rfl]
    rfl
  · exact rlpay_of_no_marker (Nat.le_refl _) (Nat.le_refl _) hnone ▸ State.endCommand_code ..

end Sys2Proof.Machine
